-- ==== Sys2Proof/Word.lean ====
section
/-!
DEFINITION. The word types of the machine (00_scope.md rules R7, R8).
-/

namespace Sys2Proof

/-- A 64-bit register, address or datum (R7). -/
abbrev Word := BitVec 64

/-- A 32-bit instruction word, 32-bit register or failure cause (R8, R120). -/
abbrev Word32 := BitVec 32

/-- A byte of storage (R60). -/
abbrev Byte := BitVec 8

/-- The number of a general register: a 5-bit field (R123). -/
abbrev RegNum := BitVec 5

/-- A 4-bit Condition Register field; its leftmost bit is bit 0 of the spec (R23). -/
abbrev CrField := BitVec 4

end Sys2Proof
end

