-- ==== Sys2Proof/Machine/Types.lean ====
section
/-!
DEFINITION. The plain data the state is made of: register files, the facility's hidden state, storage, inputs.
-/

namespace Sys2Proof.Machine

/-! ### Registers -/

/-- The registers saved in the speculative checkpoint, but for the CR and the XER, which are saved in part (10_state.md rule R50).
FPR i is the upper half of VSR i and VR i is VSR 32 + i (R53; PRESUMED, log 36). -/
structure SpecRegs where
  /-- General Purpose Registers (R21). -/
  gpr : Vector Word 32
  /-- Vector-Scalar Registers, of which the FPRs and the VRs are parts (R53). -/
  vsr : Vector (BitVec 128) 64
  /-- Link Register, SPR 8. -/
  lr : Word
  /-- Count Register, SPR 9. -/
  ctr : Word
  /-- Floating-Point Status and Control Register (no SPR). -/
  fpscr : Word
  /-- The FPSCR shows a Floating-Point Enabled Exception. The source gives the FPSCR no bit places, so the condition stands beside it (R200,
  R285; log 51). -/
  fex : Bool
  /-- Authority Mask Register, SPR 13 and 29. -/
  amr : Word
  /-- Program Priority Register, SPR 896; PPR32, SPR 898, is its upper half. -/
  ppr : Word
  /-- SPR 256. -/
  vrsave : Word32
  /-- Vector Status and Control Register (no SPR). -/
  vscr : Word32
  /-- Data Stream Control Register, SPR 17. -/
  dscr : Word
  /-- Target Address Register (its SPR number is not in the source). -/
  tar : Word
  deriving DecidableEq, Repr, Inhabited

/-- The special purpose registers outside the checkpoint: the TM registers (R34 to R41) and the other rows of Figure 1 (R46). -/
structure SprFile where
  /-- Transaction Failure Handler Address Register, SPR 128 (R34). -/
  tfhar : Word
  /-- Transaction Failure Instruction Address Register, SPR 129 (R41). -/
  tfiar : Word
  /-- Transaction Exception And Summary Register, SPR 130; TEXASRU, SPR 131, is its upper half (R35, R40). -/
  texasr : Word
  dsisr : Word32
  dar : Word
  dec : Word32
  sdr1 : Word
  srr0 : Word
  srr1 : Word
  cfar : Word
  ctrl : Word32
  uamor : Word
  /-- SPRG0 to SPRG3. -/
  sprg : Vector Word 4
  tb : Word
  ear : Word32
  pvr : Word32
  hsprg0 : Word
  hsprg1 : Word
  hdsisr : Word32
  hdar : Word
  spurr : Word
  purr : Word
  hdec : Word32
  rmor : Word
  hrmor : Word
  hsrr0 : Word
  hsrr1 : Word
  lpcr : Word
  lpidr : Word32
  hmer : Word
  hmeer : Word
  pcr : Word
  heir : Word32
  amor : Word
  spefscr : Word32
  atb : Word
  /-- The performance monitor registers (R48). -/
  perfmon : Vector Word 16
  dabr : Word
  dabrx : Word
  pir : Word32
  deriving DecidableEq, Repr, Inhabited

/-- Control bits the source names without a place in a register (R43, R44, R47). DESIGN CHOICE: they are held apart, so a write of the LPCR,
SPR 318, or of the PCR, SPR 338, leaves them as they are (log 52); unsafe. -/
structure Controls where
  /-- HFSCR.TM (R44). -/
  hfscrTm : Bool
  /-- The PCR's bit v2.06 (R43). -/
  pcrV206 : Bool
  /-- LPES[0] (R47, R290). -/
  lpes0 : Bool
  /-- LPES[1] (R47, R290). -/
  lpes1 : Bool
  /-- HILE (R290). -/
  hile : Bool
  /-- LPCR.ILE (R290). -/
  lpcrIle : Bool
  deriving DecidableEq, Repr, Inhabited

/-! ### The facility's hidden state -/

/-- The speculative register checkpoint (R50, R52). All of the CR and XER is held; the revert takes CR1 to CR7 and the XER less
FXCC from it. -/
structure Checkpoint where
  regs : SpecRegs
  cr : Word32
  xer : Word
  deriving DecidableEq, Repr

/-- The order of the bytes of a multi-byte datum or of an instruction word in storage (20_memory.md rule R71, D2). -/
inductive ByteOrder where
  /-- The most significant byte lies at the lowest address. -/
  | big
  /-- The least significant byte lies at the lowest address. -/
  | little
  deriving DecidableEq, Repr

/-- Parameters a model takes as arguments (00_scope.md rule R6), held as plain data that no step changes (log 4, log 10). -/
structure Params where
  /-- `ByteOrder` where MSR.LE = 0. -/
  orderLe0 : ByteOrder
  /-- `ByteOrder` where MSR.LE = 1. -/
  orderLe1 : ByteOrder
  /-- `NestOverflowCause` has the Failure Persistent bit: 0x01400000 and not 0x00400000 (conflict C2, U20). -/
  nestOverflowPersistent : Bool
  deriving DecidableEq, Repr

/-- The causes of imprecise failure (40_tm_states_failure.md rules R169, R173). -/
inductive ImpreciseKind where
  /-- TEXASR bit 10. -/
  | footprintOverflow
  /-- TEXASR bit 11. -/
  | selfInducedConflict
  /-- TEXASR bit 12. -/
  | nonTransactionalConflict
  /-- TEXASR bit 13. -/
  | transactionConflict
  /-- TEXASR bit 14. -/
  | translationInvalidation
  /-- TEXASR bit 15. -/
  | implementationSpecific
  /-- TEXASR bit 16. -/
  | instructionFetchConflict
  deriving DecidableEq, Repr

/-- An imprecise cause with the address of the instruction that caused it, where there is one (R172, R173). -/
structure ImpreciseCause where
  kind : ImpreciseKind
  ia : Option Word
  deriving DecidableEq, Repr

/-- A byte accessed transactionally and the address of the instruction that accessed it (R55). -/
structure Foot where
  addr : Nat
  ia : Word
  deriving DecidableEq, Repr

/-- Where a conflicting access or invalidation fell. -/
inductive Place where
  /-- The bytes of an access; `stored` if it has overwritten them. -/
  | bytes (stored : Bool) (addrs : List Nat)
  /-- The range of a page (R77). -/
  | page (base size : Nat)
  deriving DecidableEq, Repr

/-- A cause of imprecise failure that has arisen and is not yet detected (10_state.md rule R57; log 28). A `certain` one is detected
before the transaction could commit (R161, R166, R357); whether another is ever detected is undefined (R164). -/
structure Latent where
  cause : ImpreciseCause
  certain : Bool
  place : Place
  deriving DecidableEq, Repr

/-- The hidden state of the transactional facility (R52, R54, R55, R57). -/
structure Facility where
  /-- TDOOMED; read only in Transactional and Suspended state, since it is undefined in Non-transactional state (R54). -/
  tdoomed : Bool
  /-- The speculative register checkpoint, held while a transaction is active (R52, R185 invariant 2). -/
  checkpoint : Option Checkpoint
  /-- Bytes loaded transactionally (R55); a ROT's loads are not kept. -/
  readSet : List Foot
  /-- Bytes loaded transactionally while TEXASR.ROT was 1: accessed (R105, R221), but not monitored (R76 c, R97). -/
  rotReads : List Foot
  /-- Bytes stored transactionally (R55). -/
  writeSet : List Foot
  /-- The data of the transactional stores, addresses rising (R55, R82). -/
  txData : List Host.Cell
  /-- The speculative storage updates have been dropped while the transaction is nominally active (R55). -/
  updatesDiscarded : Bool
  /-- The rest of failure handling is owed as soon as the state returns to Transactional (R57, R180). -/
  handleOnResume : Bool
  /-- Causes detected and perhaps not yet recorded (R57, R174). -/
  pending : List ImpreciseCause
  /-- Causes that have arisen and are not yet detected (R57). -/
  latent : List Latent
  /-- The locations of the loads tcheck waits for (43_tm_suspend_check.md rule R221). -/
  awaited : List Nat
  /-- Bytes loaded out of order by accesses that were never executed (R169). -/
  specReads : List Foot
  /-- Bytes that stores performed out of order, and never executed, would have written (R169). -/
  specWrites : List Foot
  /-- The addresses of the instructions executed since the outer tbegin. (R173: TFIAR exact for Implementation-specific). -/
  executed : List Word
  deriving DecidableEq, Repr

/-- A reservation: where, how many bytes, and the transaction state, `MSR.TS`, in which it was established (R56, R100, R101). -/
structure Reservation where
  addr : Nat
  size : Nat
  state : BitVec 2
  deriving DecidableEq, Repr, Inhabited

/-- Whether the thread executes or is in a power-saving level (R59). -/
inductive PowerLevel where
  | running | doze | nap | sleep | rvwinkle
  deriving DecidableEq, Repr

/-! ### Storage -/

/-- Byte-addressed storage: the bytes that differ from what an unlisted address reads as, addresses rising (R60). -/
structure Memory where
  cells : List Host.Cell
  deriving DecidableEq, Repr

/-- The storage interrupts a data access can meet (60_exceptions.md rules R282, R322 to R324). A storage protection violation is told apart, since
it never sets the Change bit (20_memory.md rule R105). -/
inductive DataException where
  | dataStorage | hypervisorDataStorage
  /-- Data Storage by a storage protection violation. -/
  | protection
  /-- Hypervisor Data Storage by a storage protection violation. -/
  | hypervisorProtection
  | dataSegment | hypervisorDataSegment | alignment
  deriving DecidableEq, Repr

/-- The storage interrupts an instruction fetch can meet (R320 item 1). -/
inductive FetchException where
  | instructionStorage | hypervisorInstructionStorage | instructionSegment
  deriving DecidableEq, Repr

/-- The storage attributes of a range of effective addresses (20_memory.md rule R79), the exceptions that a load, a store and a fetch of it
meet (R112) and its Reference and Change bits (R105). That an exception is a property of the page and of the kind of access is a DESIGN CHOICE;
the formats of translation are out of scope (00_scope.md rule R4; log 41). -/
structure Page where
  base : Nat
  size : Nat
  cachingInhibited : Bool
  writeThrough : Bool
  coherenceNotRequired : Bool
  loadException : Option DataException
  storeException : Option DataException
  fetchException : Option FetchException
  referenced : Bool
  changed : Bool
  deriving DecidableEq, Repr

/-- The four elemental barriers of R93. -/
inductive Barrier where
  | mbll | mbls | mbsl | mbss
  deriving DecidableEq, Repr

/-- The base architecture's memory barrier instructions that the source names (R91, R111). -/
inductive BarrierInstr where
  /-- sync with its E field. -/
  | sync (e : BitVec 4)
  | lwsync | eieio | isync | tlbsync
  deriving DecidableEq, Repr

/-- What the thread does to storage, in the order done (R89, R91 to R97; log 42). -/
inductive StorageEvent where
  /-- A data access: load or store, transactional or not, its first byte and its size. -/
  | access (isStore transactional : Bool) (addr size : Nat)
  /-- One of the barriers tbegin. and tend. create (R93 to R95). -/
  | barrier (b : Barrier)
  /-- The integrated cumulative barrier of a successful transaction (R92). -/
  | cumulativeBarrier
  /-- The aggregate store of a committed normal transaction (R89). -/
  | aggregateStore (cells : List Host.Cell)
  /-- The stores of a committed Rollback-Only Transaction, which need not be an aggregate (R97). -/
  | rotStores (cells : List Host.Cell)
  /-- A memory barrier instruction (R91). -/
  | barrierInstr (b : BarrierInstr)
  /-- eciwx or ecowx reads or writes a word of a device (R164 a; log 39). -/
  | device (isStore : Bool) (addr : Nat) (data : Word32)
  deriving DecidableEq, Repr

/-! ### Interrupts -/

/-- The interrupts of Figure 3 (R290) and the two Facility Unavailable interrupts (R295, R296). -/
inductive InterruptKind where
  | systemReset | machineCheck | dataStorage | dataSegment | instructionStorage | instructionSegment | external
  | alignment | program | fpUnavailable | decrementer | hypervisorDecrementer
  /-- `lev1`: the System Call instruction's LEV operand is 1 (R290, legend s). -/
  | systemCall (lev1 : Bool)
  | trace | hypervisorDataStorage
  /-- Named in the priority lists, without a row of Figure 3 (R322, R323; log 53). -/
  | hypervisorDataSegment
  | hypervisorInstructionStorage | hypervisorEmulationAssistance
  | hypervisorMaintenance | performanceMonitor | vectorUnavailable | vsxUnavailable
  | facilityUnavailable | hypervisorFacilityUnavailable
  deriving DecidableEq, Repr

/-- The asynchronous interrupts (R331). -/
inductive AsyncInterrupt where
  | systemReset | machineCheck | external | decrementer | hypervisorDecrementer | hypervisorMaintenance
  | performanceMonitor
  deriving DecidableEq, Repr

/-! ### Inputs: what the agents other than the thread's own instructions do at an instruction boundary -/

/-- An imprecise failure the facility detects (R160, R169; R184 step 3). -/
inductive Detection where
  /-- Needs no external trigger (U5). -/
  | implementationSpecific
  /-- May happen at any access (U13). -/
  | footprintOverflow
  /-- Eviction of a block accessed transactionally, recorded as bit 15 or as bit 12 (R164 h, R173). -/
  | eviction (implSpecific : Bool)
  /-- One of the causes that have arisen and are not yet detected. -/
  | latent (index : Nat)
  deriving DecidableEq, Repr

/-- The cache management instructions (R110). dcbz is a Store and stands under `BaseInstr`. -/
inductive CacheOp where
  | dcbf | dcbi | icbi | dcbst | dcbt | dcbtst
  deriving DecidableEq, Repr

/-- What the thread does out of order and never executes (R169), with the address of the instruction. -/
inductive Speculation where
  | load (addr : Nat) (ia : Word)
  /-- A transactional store; `required` if the sequential execution model would require it but for an interrupt or a failure (R105). -/
  | store (addr : Nat) (ia : Word) (required : Bool)
  /-- A Suspended state store. -/
  | suspendedStore (addr : Nat) (ia : Word) (required : Bool)
  | cacheOp (op : CacheOp) (addr : Nat) (ia : Word)
  /-- tlbie for the range of addresses of a page. -/
  | tlbie (base size : Nat)
  | fetch (addr : Nat) (ia : Word)
  deriving DecidableEq, Repr

/-- The failure agent's choices at one boundary: steps 3 to 6 of R184. -/
structure AgentDraw where
  detect : Option Detection
  record : Bool
  discard : Bool
  handle : Bool
  /-- An operation out of order (R169). -/
  speculate : Option Speculation
  /-- An access of the transaction whose page has its Reference bit set, and, if it is a store, perhaps its Change bit (R105). -/
  touch : Option (Nat × Bool)
  deriving DecidableEq, Repr, Inhabited

/-- Which of two conflicting transactions fails: at least one, perhaps both (R76). -/
inductive ConflictLoser where
  | ours | theirs | both
  deriving DecidableEq, Repr

/-- Who makes an access on another processor: ordinary code, or a transaction with the outcome a conflict has. -/
inductive OtherAgent where
  | nonTransactional
  | transaction (loser : ConflictLoser)
  deriving DecidableEq, Repr

/-- What another processor or mechanism does (R12 b). -/
inductive ExternalEvent where
  | load (who : OtherAgent) (addr : Word) (size : Nat)
  | store (who : OtherAgent) (addr : Word) (bytes : List Byte)
  /-- tlbie for the range of addresses of a page (R77, R103). -/
  | tlbie (base size : Nat)
  /-- dcbf, dcbi or icbi (R164 f). -/
  | cacheFlush (addr : Word)
  /-- dcbst (R164 g). -/
  | cacheClean (addr : Word)
  /-- An instruction fetch (R164 e). -/
  | fetch (addr : Word)
  /-- One of the base architecture's causes of reservation loss, which are not in the source (R100). -/
  | loseReservation
  /-- An asynchronous interrupt becomes pending (R331). -/
  | raise (i : AsyncInterrupt)
  /-- The processor modifies a performance monitor register asynchronously (10_state.md rule R48). -/
  | perfmon (i : Fin 16) (v : Word)
  deriving DecidableEq, Repr

/-- The widths the source names (R73). -/
inductive AccessSize where
  | byte | half | word | double
  deriving DecidableEq, Repr

/-- A write of a register by a base instruction (R86, R51). -/
inductive RegWrite where
  | gpr (r : RegNum) (v : Word)
  | vsr (r : BitVec 6) (v : BitVec 128)
  | fpr (r : RegNum) (v : Word)
  | vr (r : RegNum) (v : BitVec 128)
  | crField (i : BitVec 3) (v : CrField)
  | lr (v : Word) | ctr (v : Word) | xer (v : Word) | fpscr (v : Word) | vscr (v : Word32) | tar (v : Word)
  | ppr (v : Word) | vrsave (v : Word32) | dscr (v : Word) | amr (v : Word)
  deriving DecidableEq, Repr

/-- A register a Load places its value in or a Store takes it from (R21, R53). -/
inductive DataReg where
  | gpr (r : RegNum)
  | fpr (r : RegNum)
  | vr (r : RegNum)
  | vsr (r : BitVec 6)
  deriving DecidableEq, Repr

/-- How the bytes a Load read become a register's value (R81). -/
inductive Extension where
  | zero
  | sign
  /-- A conversion the base architecture makes, such as single to double format; its result is free (log 39). -/
  | convert (op : Nat)
  deriving DecidableEq, Repr

/-- One register of a Load (R81): the bytes of the operand it takes, and how. -/
structure LoadPart where
  target : DataReg
  offset : Nat
  bytes : Nat
  reversed : Bool
  extension : Extension
  deriving DecidableEq, Repr

/-- One register of a Store (R82): its low-order bytes are stored after the bytes of the parts before it. -/
structure StorePart where
  source : DataReg
  bytes : Nat
  reversed : Bool
  /-- A conversion the base architecture makes; its result is free (log 39). -/
  convert : Option Nat
  deriving DecidableEq, Repr

/-- The disallowed instructions of R162 that have no other place in this model. The source's list has two names removed and the 25 it keeps
may not be all (N4): `unnamed` stands for any further one, and that the tape says which words are such is a DESIGN CHOICE (log 39). -/
inductive DisallowedInstr where
  | mtsle | mtsr | mtsrin | msgsnd | msgsndp | msgclr | msgclrp | slbie | slbia | slbmte | slbfee | tlbiel
  | unnamed
  deriving DecidableEq, Repr

/-- The interrupts a base instruction may cause by itself (R290, R302). -/
inductive BaseInterrupt where
  | systemCall (lev1 : Bool)
  | trap
  | fpUnavailable | vectorUnavailable | vsxUnavailable
  | hypervisorFacilityUnavailable | facilityUnavailable
  | hypervisorEmulationAssistance
  deriving DecidableEq, Repr

/-- The operand of a data access that meets an exception: a Load's, a Store's with the bytes it stores, or a dcbz's block. -/
inductive AccessShape where
  | load (ea : Word) (size : Nat)
  | store (ea : Word) (parts : List StorePart)
  | dcbz (ea : Word)
  deriving DecidableEq, Repr

/-- What a word outside the opcode table does, as the base model that the spec leaves to its reader says it (00_scope.md rule R4;
30_encoding.md rule R129; log 39). Addresses and computed values are given; the rules R80 to R86 say what becomes of them. -/
inductive BaseInstr where
  /-- An instruction that accesses no storage (R86). -/
  | compute (writes : List RegWrite)
  /-- A floating-point instruction: its register writes, the FPSCR's among them, and whether the FPSCR then shows a Floating-Point
  Enabled Exception (R200, R285). -/
  | floatingPoint (writes : List RegWrite) (fex : Bool)
  /-- A branch, taken or not; `link` writes the LR and `decrement` the CTR (R86). -/
  | branch (taken link decrement : Bool) (target : Word)
  /-- A Load of `size` bytes into one or more registers; `updates` are the other registers it writes, such as the base register of an update
  form (R81). -/
  | load (ea : Word) (size : Nat) (parts : List LoadPart) (updates : List RegWrite)
  /-- A Store of one or more registers (R82). -/
  | store (ea : Word) (parts : List StorePart) (updates : List RegWrite)
  /-- A Store of zeros to a whole block (R76 d, R110). -/
  | dcbz (ea : Word)
  | loadReserve (rt : RegNum) (ea : Word) (size : AccessSize)
  | storeConditional (rs : RegNum) (ea : Word) (size : AccessSize)
  | waitrsv
  /-- lbzcix, lhzcix, lwzcix, ldcix (R164 a). -/
  | cachingInhibitedLoad (rt : RegNum) (ea : Word) (size : AccessSize)
  /-- stbcix, sthcix, stwcix, stdcix (R164 a). -/
  | cachingInhibitedStore (rs : RegNum) (ea : Word) (size : AccessSize)
  /-- eciwx into a register (R164 a). -/
  | eciwx (rt : RegNum) (ea : Word)
  /-- ecowx of a register (R164 a). -/
  | ecowx (rs : RegNum) (ea : Word)
  | cacheOp (op : CacheOp) (ea : Word)
  /-- tlbie for the range of addresses of a page (R77, R103). -/
  | tlbie (base size : Nat)
  /-- tlbia: no effect on transactions (R104). -/
  | tlbia
  | disallowed (d : DisallowedInstr) (writes : List RegWrite)
  /-- mtmsr: the MSR it would leave, of which it cannot write bits 29:31 (46_msr_linkage.md rule R254). -/
  | mtmsr (value : Word)
  /-- wait, waitasec (R164 b, c). -/
  | wait
  | barrier (b : BarrierInstr)
  | interrupt (i : BaseInterrupt)
  /-- An access that meets an exception for a reason other than its page, such as the alignment of its operand, at its byte `index` (log 41). -/
  | storageException (e : DataException) (index : Nat) (access : AccessShape)
  deriving DecidableEq, Repr

/-- The level an instruction or a register access needs (R310). -/
inductive PrivLevel where
  | problem | privileged | hypervisor
  deriving DecidableEq, Repr

/-- A base instruction with the level it needs. -/
structure BaseStep where
  level : PrivLevel
  instr : BaseInstr
  deriving DecidableEq, Repr

/-- One entry of the input tape: what happens at one instruction boundary besides the thread's own next instruction. -/
structure Boundary where
  /-- What other processors and mechanisms do, in order. -/
  external : List ExternalEvent
  /-- What the thread's failure agent does. -/
  agent : AgentDraw
  /-- What the word fetched at this boundary does if it is no row of the opcode table. -/
  base : Option BaseStep
  deriving DecidableEq, Repr

/-- A Load of one General Purpose Register, zero-extended. -/
def BaseInstr.loadGpr (rt : RegNum) (ea : Word) (size : Nat) : BaseInstr :=
  .load ea size [⟨.gpr rt, 0, size, false, .zero⟩] []

/-- A Store of the low-order bytes of one General Purpose Register. -/
def BaseInstr.storeGpr (rs : RegNum) (ea : Word) (size : Nat) : BaseInstr := .store ea [⟨.gpr rs, size, false, none⟩] []

end Sys2Proof.Machine
end

