-- ==== Sys2Proof/Syntax.lean ====
section
/-!
DEFINITION. The instructions: one constructor for each row of spec/opcode_table.json (30_encoding.md rule R127).
-/

namespace Sys2Proof

/-- The instructions of the specification, with their operands (R123, R124).
Register fields are 5-bit numbers, `si` is the signed immediate (-16 to 15), `spr` the number of a special purpose
register after the halves of the field are put in order (R128). -/
inductive Instr where
  /-- Transaction Begin (R202): `a` is the implementation-specific bit, `r` begins a Rollback-Only Transaction. -/
  | tbegin (a r : Bool)
  /-- Transaction End (R203): `a` ends every nesting level. -/
  | tend (a : Bool)
  /-- Transaction Abort (R211). -/
  | tabort (ra : RegNum)
  /-- Transaction Abort Word Conditional (R212). -/
  | tabortwc (cond : BitVec 5) (ra rb : RegNum)
  /-- Transaction Abort Word Conditional Immediate (R213). -/
  | tabortwci (cond : BitVec 5) (ra : RegNum) (si : Int)
  /-- Transaction Abort Doubleword Conditional (R214). -/
  | tabortdc (cond : BitVec 5) (ra rb : RegNum)
  /-- Transaction Abort Doubleword Conditional Immediate (R215). -/
  | tabortdci (cond : BitVec 5) (ra : RegNum) (si : Int)
  /-- Transaction Suspend or Resume (R220): `l` resumes. -/
  | tsr (l : Bool)
  /-- Transaction Check (R221). -/
  | tcheck (bf : BitVec 3)
  /-- Transaction Reclaim (R231). -/
  | treclaim (ra : RegNum)
  /-- Transaction Recheckpoint (R232). -/
  | trechkpt
  /-- Move From Special Purpose Register (R240). -/
  | mfspr (rt : RegNum) (spr : Nat)
  /-- Move To Special Purpose Register (R241). -/
  | mtspr (spr : Nat) (rs : RegNum)
  /-- Move To Machine State Register Doubleword (R254): `l` writes only bits 48 and 62. -/
  | mtmsrd (rs : RegNum) (l : Bool)
  /-- Return From Interrupt Doubleword (R252). -/
  | rfid
  /-- Hypervisor Return From Interrupt Doubleword (R253). -/
  | hrfid
  /-- Doze (R271). -/
  | doze
  /-- Nap (R272). -/
  | nap
  /-- Sleep (R273). -/
  | sleep
  /-- Rip Van Winkle (R274). -/
  | rvwinkle
  deriving DecidableEq, Repr

/-- The eleven Transactional Memory instructions (R201). -/
def Instr.isTm : Instr → Bool
  | .tbegin _ _ => true
  | .tend _ => true
  | .tabort _ => true
  | .tabortwc _ _ _ => true
  | .tabortwci _ _ _ => true
  | .tabortdc _ _ _ => true
  | .tabortdci _ _ _ => true
  | .tsr _ => true
  | .tcheck _ => true
  | .treclaim _ => true
  | .trechkpt => true
  | .mfspr _ _ => false
  | .mtspr _ _ => false
  | .mtmsrd _ _ => false
  | .rfid => false
  | .hrfid => false
  | .doze => false
  | .nap => false
  | .sleep => false
  | .rvwinkle => false

end Sys2Proof
end

