-- ==== Sys2Proof/WellFormed.lean ====
section
/-!
DEFINITION. Which instructions an encoding exists for: the operands whose type is wider than their field.
-/

namespace Sys2Proof

/-- SI is a 5-bit signed immediate: values -16 to +15 (R124). -/
def siFits (si : Int) : Bool := decide (-16 ≤ si) && decide (si ≤ 15)

/-- A special purpose register is selected by a 10-bit number (R29). -/
def sprFits (n : Nat) : Bool := decide (n < 1024)

/-- The operands fit their fields; every other operand has the width of its field by its type. -/
def Instr.wellFormed : Instr → Bool
  | .tabortwci _ _ si => siFits si
  | .tabortdci _ _ si => siFits si
  | .mfspr _ spr => sprFits spr
  | .mtspr spr _ => sprFits spr
  | .tbegin _ _ => true
  | .tend _ => true
  | .tabort _ => true
  | .tabortwc _ _ _ => true
  | .tabortdc _ _ _ => true
  | .tsr _ => true
  | .tcheck _ => true
  | .treclaim _ => true
  | .trechkpt => true
  | .mtmsrd _ _ => true
  | .rfid => true
  | .hrfid => true
  | .doze => true
  | .nap => true
  | .sleep => true
  | .rvwinkle => true

end Sys2Proof
end

