-- ==== Sys2Proof/Decode.lean ====
section
/-!
DEFINITION. Decoding and encoding of instruction words (30_encoding.md).
-/

namespace Sys2Proof

open Sys2Proof.Machine

/-- Why a word is not read as an instruction of the table. -/
inductive DecodeError where
  /-- No row of R127 matches: a word of the base architecture (R129). -/
  | notInOpcodeTable
  /-- A row matches and a reserved bit of it is 1 (R125, D5). -/
  | reservedField
  /-- A dotted row's word but with bit 31 = 0: an encoding the source does not define (R132). -/
  | undefinedEncoding
  /-- Fewer than four bytes were given. -/
  | tooShort
  deriving DecidableEq, Repr

/-- The rows of the opcode table (R127). -/
inductive Opcode where
  | tbegin | tend | tabort | tabortwc | tabortwci | tabortdc | tabortdci | tsr | tcheck | treclaim | trechkpt
  | mfspr | mtspr | mtmsrd | rfid | hrfid | doze | nap | sleep | rvwinkle
  deriving DecidableEq, Repr

/-- Every row, in the table's order. -/
def Opcode.all : List Opcode :=
  [.tbegin, .tend, .tabort, .tabortwc, .tabortwci, .tabortdc, .tabortdci, .tsr, .tcheck, .treclaim, .trechkpt,
   .mfspr, .mtspr, .mtmsrd, .rfid, .hrfid, .doze, .nap, .sleep, .rvwinkle]

/-- The bits that select a row: primary opcode, extended opcode and bit 31 (R127, column mask). -/
def opcodeMask : Word32 := 0xFC0007FF

/-- `match` of R127: the word with every operand and reserved field zero. -/
def Opcode.matchBits : Opcode → Word32
  | .tbegin => 0x7C00051D
  | .tend => 0x7C00055D
  | .tabort => 0x7C00071D
  | .tabortwc => 0x7C00061D
  | .tabortwci => 0x7C00069D
  | .tabortdc => 0x7C00065D
  | .tabortdci => 0x7C0006DD
  | .tsr => 0x7C0005DD
  | .tcheck => 0x7C00059C
  | .treclaim => 0x7C00075D
  | .trechkpt => 0x7C0007DD
  | .mfspr => 0x7C0002A6
  | .mtspr => 0x7C0003A6
  | .mtmsrd => 0x7C000164
  | .rfid => 0x4C000024
  | .hrfid => 0x4C000224
  | .doze => 0x4C000324
  | .nap => 0x4C000364
  | .sleep => 0x4C0003A4
  | .rvwinkle => 0x4C0003E4

/-- The reserved bits of a row outside `opcodeMask` (R125). -/
def Opcode.reservedBits : Opcode → Word32
  | .tbegin => 0x01DFF800
  | .tend => 0x01FFF800
  | .tabort => 0x03E0F800
  | .tabortwc => 0x00000000
  | .tabortwci => 0x00000000
  | .tabortdc => 0x00000000
  | .tabortdci => 0x00000000
  | .tsr => 0x03DFF800
  | .tcheck => 0x007FF800
  | .treclaim => 0x03E0F800
  | .trechkpt => 0x03FFF800
  | .mfspr => 0x00000000
  | .mtspr => 0x00000000
  | .mtmsrd => 0x001EF800
  | .rfid => 0x03FFF800
  | .hrfid => 0x03FFF800
  | .doze => 0x03FFF800
  | .nap => 0x03FFF800
  | .sleep => 0x03FFF800
  | .rvwinkle => 0x03FFF800

/-- Instruction bits 6:10 (RT, RS, TO). -/
def field6 (w : Word32) : BitVec 5 := w.extractLsb' 21 5
/-- Instruction bits 11:15 (RA). -/
def field11 (w : Word32) : BitVec 5 := w.extractLsb' 16 5
/-- Instruction bits 16:20 (RB, SI). -/
def field16 (w : Word32) : BitVec 5 := w.extractLsb' 11 5
/-- Instruction bit 6 (A). -/
def bit6 (w : Word32) : Bool := w.getMsbD 6
/-- Instruction bit 10 (R, and L of tsr.). -/
def bit10 (w : Word32) : Bool := w.getMsbD 10
/-- Instruction bit 15 (L of mtmsrd). -/
def bit15 (w : Word32) : Bool := w.getMsbD 15
/-- Instruction bits 6:8 (BF). -/
def fieldBf (w : Word32) : BitVec 3 := w.extractLsb' 23 3
/-- SI, sign-extended: a number from -16 to 15 (R124). -/
def fieldSi (w : Word32) : Int := (field16 w).toInt
/-- The SPR number: `n = spr[5:9] || spr[0:4]`, so bits 16:20 are its high half and bits 11:15 its low half (R128). -/
def fieldSpr (w : Word32) : Nat := (field16 w).toNat * 32 + (field11 w).toNat

/-- The instruction of a row with the operands of the word (R123, R124). -/
def Opcode.operands (w : Word32) : Opcode → Instr
  | .tbegin => .tbegin (bit6 w) (bit10 w)
  | .tend => .tend (bit6 w)
  | .tabort => .tabort (field11 w)
  | .tabortwc => .tabortwc (field6 w) (field11 w) (field16 w)
  | .tabortwci => .tabortwci (field6 w) (field11 w) (fieldSi w)
  | .tabortdc => .tabortdc (field6 w) (field11 w) (field16 w)
  | .tabortdci => .tabortdci (field6 w) (field11 w) (fieldSi w)
  | .tsr => .tsr (bit10 w)
  | .tcheck => .tcheck (fieldBf w)
  | .treclaim => .treclaim (field11 w)
  | .trechkpt => .trechkpt
  | .mfspr => .mfspr (field6 w) (fieldSpr w)
  | .mtspr => .mtspr (fieldSpr w) (field6 w)
  | .mtmsrd => .mtmsrd (field6 w) (bit15 w)
  | .rfid => .rfid
  | .hrfid => .hrfid
  | .doze => .doze
  | .nap => .nap
  | .sleep => .sleep
  | .rvwinkle => .rvwinkle

/-- The row a word matches: at most one, since the `match` values are distinct (R129). -/
def findOpcode (w : Word32) : Option Opcode := Opcode.all.find? fun o => (w &&& opcodeMask) == o.matchBits

/-- Bit 31 is a reserved field of a row whose `match` has it 0 (R125, R132): such a row's word with bit 31 set. -/
def hasReservedBit31 (w : Word32) : Bool := (findOpcode (w &&& ~~~1#32)).isSome

/-- The word of a row whose `match` has bit 31 = 1 (a dotted TM instruction), but with bit 31 = 0 (R132). -/
def lacksBit31 (w : Word32) : Bool := (findOpcode (w ||| 1#32)).isSome

/-- Decode one instruction word (R129): the row it matches, then its reserved bits, then its operands. Words no row matches are told apart by
R132. -/
def decodeWord (w : Word32) : Except DecodeError Instr :=
  match findOpcode w with
  | none =>
    if hasReservedBit31 w then .error .reservedField
    else if lacksBit31 w then .error .undefinedEncoding
    else .error .notInOpcodeTable
  | some o => if w &&& o.reservedBits = 0 then .ok (o.operands w) else .error .reservedField

/-- Bytes between most-significant-first and storage order (20_memory.md rule R71, D2). -/
def storageOrder (order : ByteOrder) (l : List Byte) : List Byte :=
  match order with
  | .big => l
  | .little => l.reverse

/-- The four bytes of an instruction word, lowest address first (R71, R120). -/
def wordToBytes (order : ByteOrder) (w : Word32) : List Byte :=
  storageOrder order [w.extractLsb' 24 8, w.extractLsb' 16 8, w.extractLsb' 8 8, w.extractLsb' 0 8]

/-- The instruction word of four bytes, lowest address first. -/
def bytesToWord (order : ByteOrder) (b0 b1 b2 b3 : Byte) : Word32 :=
  match order with
  | .big => b0 ++ b1 ++ b2 ++ b3
  | .little => b3 ++ b2 ++ b1 ++ b0

/-- Decode the first instruction of a list of bytes; what follows it is not looked at. -/
def decodeBytes (order : ByteOrder) : List Byte → Except DecodeError Instr
  | b0 :: b1 :: b2 :: b3 :: _ => decodeWord (bytesToWord order b0 b1 b2 b3)
  | _ => .error .tooShort

/-- The host's question: the instruction the decoder reads from a table word. Every instruction is one 32-bit word (R120), so
`nbits` does not change the answer: the bits above `nbits` are those of `w`. -/
def decodeTableWord (_nbits w : Nat) : Option Instr :=
  (decodeBytes .big (wordToBytes .big (BitVec.ofNat 32 w))).toOption

/-- The row of an instruction. -/
def Instr.opcode : Instr → Opcode
  | .tbegin _ _ => .tbegin
  | .tend _ => .tend
  | .tabort _ => .tabort
  | .tabortwc _ _ _ => .tabortwc
  | .tabortwci _ _ _ => .tabortwci
  | .tabortdc _ _ _ => .tabortdc
  | .tabortdci _ _ _ => .tabortdci
  | .tsr _ => .tsr
  | .tcheck _ => .tcheck
  | .treclaim _ => .treclaim
  | .trechkpt => .trechkpt
  | .mfspr _ _ => .mfspr
  | .mtspr _ _ => .mtspr
  | .mtmsrd _ _ => .mtmsrd
  | .rfid => .rfid
  | .hrfid => .hrfid
  | .doze => .doze
  | .nap => .nap
  | .sleep => .sleep
  | .rvwinkle => .rvwinkle

/-- A field whose last bit is instruction bit `e` is shifted left by `31 - e` (R134). -/
def placeField {n : Nat} (v : BitVec n) (shift : Nat) : Word32 := v.setWidth 32 <<< shift

/-- The spr field: the low half of the number in bits 11:15, the high half in bits 16:20 (R128). -/
def placeSpr (n : Nat) : Word32 := placeField (BitVec.ofNat 5 n) 16 ||| placeField (BitVec.ofNat 5 (n / 32)) 11

/-- The operand fields of an instruction, each at its place (R124, R134). -/
def Instr.operandBits : Instr → Word32
  | .tbegin a r => placeField (BitVec.ofBool a) 25 ||| placeField (BitVec.ofBool r) 21
  | .tend a => placeField (BitVec.ofBool a) 25
  | .tabort ra => placeField ra 16
  | .tabortwc cond ra rb => placeField cond 21 ||| placeField ra 16 ||| placeField rb 11
  | .tabortwci cond ra si => placeField cond 21 ||| placeField ra 16 ||| placeField (BitVec.ofInt 5 si) 11
  | .tabortdc cond ra rb => placeField cond 21 ||| placeField ra 16 ||| placeField rb 11
  | .tabortdci cond ra si => placeField cond 21 ||| placeField ra 16 ||| placeField (BitVec.ofInt 5 si) 11
  | .tsr l => placeField (BitVec.ofBool l) 21
  | .tcheck bf => placeField bf 23
  | .treclaim ra => placeField ra 16
  | .trechkpt => 0
  | .mfspr rt spr => placeField rt 21 ||| placeSpr spr
  | .mtspr spr rs => placeField rs 21 ||| placeSpr spr
  | .mtmsrd rs l => placeField rs 21 ||| placeField (BitVec.ofBool l) 16
  | .rfid => 0
  | .hrfid => 0
  | .doze => 0
  | .nap => 0
  | .sleep => 0
  | .rvwinkle => 0

/-- The word of an instruction: its operand fields OR-ed into `match` (R134). -/
def encode (i : Instr) : Word32 := i.opcode.matchBits ||| i.operandBits

end Sys2Proof
end

