-- ==== Sys2Proof/Machine/Bits.lean ====
section
/-!
DEFINITION. Bit fields. The spec numbers bit 0 as the most significant (00_scope.md rule R8); `bit` and `putBit` take that
number. A field is named by the position of its last bit counted from the right end and by its length.
-/

namespace Sys2Proof.Machine

/-- `x[i]`, bit 0 the most significant (R8). -/
def bit {w : Nat} (x : BitVec w) (i : Nat) : Bool := x.getMsbD i

/-- `x` with the `len` bits that end `lo` bits before the right end replaced by `v`. -/
def putField {w : Nat} (x : BitVec w) (lo len : Nat) (v : BitVec len) : BitVec w :=
  (x &&& ~~~((BitVec.allOnes len).setWidth w <<< lo)) ||| (v.setWidth w <<< lo)

/-- `x[i] <- b` on a 64-bit register (R8). -/
def putBit (x : Word) (i : Nat) (b : Bool) : Word := putField x (63 - i) 1 (BitVec.ofBool b)

/-- Ones in bits `a` to `b` (bit 0 the most significant), zeros elsewhere. -/
def maskRange (a b : Nat) : Word := (BitVec.allOnes 64 >>> a) &&& (BitVec.allOnes 64 <<< (63 - b))

/-- The bits of `new` where `mask` has a one, those of `old` elsewhere. -/
def select {w : Nat} (mask new old : BitVec w) : BitVec w := (new &&& mask) ||| (old &&& ~~~mask)

/-- An instruction address: the two low-order bits are forced to zero (R22). -/
def wordAlign (a : Word) : Word := a &&& ~~~3#64

/-- The low 32 bits of an address, the upper half zero: an effective address in 32-bit mode (R22). -/
def low32 (a : Word) : Word := (a.setWidth 32).setWidth 64

end Sys2Proof.Machine
end

