-- ==== Sys2Proof/Machine/Flags.lean ====
section
/-!
DEFINITION. Condition Register fields and the conditions of the conditional aborts (10_state.md rules R23 to R26;
42_tm_abort.md rules R212, R216).
-/

namespace Sys2Proof.Machine

/-- `0b0 || MSR.TS || 0b0`: the state before the instruction (R24). -/
def stateField (ts : BitVec 2) : CrField := 0#1 ++ ts ++ 0#1

/-- `0b101 || 0`: transaction failure (R24, R176). -/
def failureField : CrField := 0b1010

/-- `TDOOMED || MSR.TS || 0b0`: what tcheck writes (R25). -/
def checkField (doomed : Bool) (ts : BitVec 2) : CrField := BitVec.ofBool doomed ++ ts ++ 0#1

/-- `CR[i]`, field 0 the leftmost (R23). -/
def crField (cr : Word32) (i : BitVec 3) : CrField := cr.extractLsb' (28 - 4 * i.toNat) 4

/-- `CR[i] <- v` (R23). -/
def putCrField (cr : Word32) (i : BitVec 3) (v : CrField) : Word32 := putField cr (28 - 4 * i.toNat) 4 v

/-- A conditional abort's test: some bit of TO is 1 and its condition holds between `a` and `b`. Bits 0, 1, 2: signed less, signed
greater, equal; bits 3, 4: unsigned less, unsigned greater (R212, R216). -/
def abortCondition (cond : BitVec 5) (a b : Word) : Bool :=
  (bit cond 0 && a.slt b) || (bit cond 1 && b.slt a) || (bit cond 2 && a == b) || (bit cond 3 && a.ult b) ||
    (bit cond 4 && b.ult a)

end Sys2Proof.Machine
end

