-- ==== Sys2Proof/Machine/Memory.lean ====
section
/-!
DEFINITION. Byte storage: lists of address and byte pairs, read and written by address (10_state.md rule R60; log 5).
-/

namespace Sys2Proof.Machine

/-- The byte listed for an address, if one is. -/
def cellAt : List Host.Cell → Nat → Option Byte
  | [], _ => none
  | (k, x) :: rest, a => if a = k then some x else cellAt rest a

/-- The list with the byte of one address set; addresses that rise keep rising. -/
def cellPut : List Host.Cell → Nat → Byte → List Host.Cell
  | [], a, v => [(a, v)]
  | (k, x) :: rest, a, v =>
    if a = k then (a, v) :: rest
    else if a < k then (a, v) :: (k, x) :: rest
    else (k, x) :: cellPut rest a v

/-- The list without an address. -/
def cellDrop (l : List Host.Cell) (a : Nat) : List Host.Cell := l.filter fun c => c.1 != a

/-- What an unlisted address reads as. The source gives storage no contents at reset: DESIGN CHOICE 0 (log 5); unsafe. -/
def unlistedByte : Byte := 0

/-- The byte at an address, as other threads see it. -/
def Memory.read (m : Memory) (a : Nat) : Byte := (cellAt m.cells a).getD unlistedByte

/-- The storage with one byte written; writing what an unlisted address reads as removes the entry. -/
def Memory.write (m : Memory) (a : Nat) (v : Byte) : Memory :=
  if v = unlistedByte then ⟨cellDrop m.cells a⟩ else ⟨cellPut m.cells a v⟩

/-- The storage with a list of bytes written, in order. -/
def Memory.writeCells (m : Memory) (cs : List Host.Cell) : Memory := cs.foldl (fun m c => m.write c.1 c.2) m

/-- Addresses strictly rise. -/
abbrev cellsRise (l : List Host.Cell) : Prop := l.Pairwise fun x y => x.1 < y.1

/-- The canonical form: addresses strictly rising, each an effective address, and no entry equal to what an unlisted address
reads as. -/
abbrev Memory.wf (m : Memory) : Prop :=
  cellsRise m.cells ∧ ∀ c ∈ m.cells, c.1 < 2 ^ 64 ∧ c.2 ≠ unlistedByte

end Sys2Proof.Machine
end

