-- ==== Sys2Proof/Config.lean ====
section
/-!
DEFINITION. What an implementation fixes and what the spec leaves free. An opaque constant has no body: nothing can be proved
of its value, so a statement holds for every value the spec allows (00_scope.md rule R6, 93_implementation_defined.md).
-/

namespace Sys2Proof

open Sys2Proof.Machine

/-! ### Parameters (R6) -/

/-- `t - 4`, where 4 ≤ t ≤ 12 (R6, U1). -/
opaque Config.tAboveFour : Fin 9

/-- The parameter `t` of the maximum transaction level (R6, R38). -/
def Config.t : Nat := 4 + Config.tAboveFour.val

/-- `TLmax = 2^t - 1` (R6). -/
def Config.tlMax : Nat := 2 ^ Config.t - 1

/-- The size of a storage block, less one (R6, R75, U12). -/
opaque Config.blockSizeLessOne : Nat

/-- `BlockSize`: the unit of conflict detection in bytes (R75). -/
def Config.blockSize : Nat := Config.blockSizeLessOne + 1

/-- `FXCC_MASK`: the bits of the XER that are not checkpointed (R28, D6). -/
opaque Config.fxccMask : Word

/-- The interrupt vectors the source does not print (R113, D4, D18). -/
opaque Config.openVector : InterruptKind → Word

/-- The default of `ResetVector`, an argument of `State.resetAt`. PRESUMED 0x100, the Power ISA's (R6, R341, D4; log 2); unsafe. -/
def Config.resetVector : Word := 0x100

/-! ### Free values: each is applied to the State's draw counter -/

/-- A free bit (R9, `draw`). -/
opaque Config.freeBit : Nat → Bool

/-- A free 64-bit value. -/
opaque Config.freeWord : Nat → Word

/-- A free index. -/
opaque Config.freeIndex : Nat → Nat

/-- What the failure agent does at a boundary for which the input tape gives nothing (R160, D13). -/
opaque Config.agentDraw : Nat → AgentDraw

/-- What a conversion a Load or a Store makes gives: by the conversion and the value (log 39). -/
opaque Config.baseConversion : Nat → BitVec 128 → BitVec 128

/-- Speculative registers lost in a power-saving level (R272 to R274, U8). -/
opaque Config.lostRegs : Nat → SpecRegs

/-- Special purpose registers lost in a power-saving level (U8). -/
opaque Config.lostSprs : Nat → SprFile

/-- Control bits lost in a power-saving level (U8). -/
opaque Config.lostControls : Nat → Controls

/-- A reservation after a power-saving level that loses state (U8). -/
opaque Config.lostReservation : Nat → Option Reservation

end Sys2Proof
end

