-- ==== Sys2Proof/Machine/State.lean ====
section
/-!
DEFINITION. The state of the machine, the reasons a step can stop, and the state after reset (10_state.md).
-/

namespace Sys2Proof.Machine

/-- Why the machine stops with a fault. -/
inductive Fault where
  /-- Raised by failure handling and by treclaim. where the transaction has no checkpoint to revert to. No reachable state
  has an active transaction without one (R52, R185 invariant 2). Safe: the model stops. -/
  | noCheckpoint
  deriving DecidableEq, Repr

/-- Why the machine gives no meaning. -/
inductive Refusal where
  /-- Raised by an instruction that has no meaning yet; the string is its mnemonic. Safe. -/
  | notModelled (mnemonic : String)
  /-- Raised by a TM instruction or a TM SPR access in problem state when the PCR disables TM: "unavailable in problem state", with no
  mechanism in the source (R43, R201, U21, D11). Safe. -/
  | tmDisabledByPcr
  /-- Raised by the step in a state with MSR.TS = 0b11 or with TS = T and TM = 0, which no rule produces (U17). Safe. -/
  | unreachableTransactionState
  /-- Raised by the step for a word that has a reserved bit set (R125, R132, U18, D5). Safe. -/
  | reservedField
  /-- Raised by the step for a word of the base architecture whose effect the input tape does not give (R129). Safe. -/
  | notInOpcodeTable
  /-- Raised by the step for a word of primary opcode 31 with the extended opcode of a dotted TM instruction and bit 31 = 0, which is
  "not defined in the source; treatment `refuse`" (R132). Safe. -/
  | undefinedEncoding
  deriving DecidableEq, Repr

/-- The state of one hardware thread, of the storage it uses and of the inputs it has yet to meet (10_state.md rule R20). -/
structure State where
  /-- The live speculative registers, but for CR and XER (R50). -/
  regs : SpecRegs
  /-- The Condition Register (R23). -/
  cr : Word32
  /-- The Fixed-Point Exception Register (R28). -/
  xer : Word
  /-- The Machine State Register (R30). -/
  msr : Word
  /-- The address of the next instruction: CIA when that instruction executes (R22). -/
  nia : Word
  /-- The special purpose registers outside the checkpoint (R46). -/
  sprs : SprFile
  /-- Control bits named without a register position (R43, R44, R47). -/
  controls : Controls
  /-- The facility's hidden state (R52 to R57). -/
  tm : Facility
  /-- At most one reservation (R56, R100). -/
  reservation : Option Reservation
  /-- Executing, or the power-saving level (R59). -/
  power : PowerLevel
  /-- Storage as other threads see it (R60). -/
  mem : Memory
  /-- Storage attributes, storage exceptions, Reference and Change bits (R79, R105, R112). -/
  pages : List Page
  /-- Parameters (00_scope.md rule R6). -/
  params : Params
  /-- MODEL's own: what the thread did to storage, oldest first (log 42). -/
  storageLog : List StorageEvent
  /-- MODEL's own: asynchronous interrupts that are pending (R331). -/
  pendingInterrupts : List AsyncInterrupt
  /-- MODEL's own: what the other agents do at the coming boundaries (log 21). -/
  tape : List Boundary
  /-- MODEL's own: how many free values have been drawn (log 24). -/
  draws : Nat
  /-- MODEL's own: the last instruction completed in the sense of R300, so that it may be traced (log 46). -/
  completed : Bool
  deriving DecidableEq, Repr

/-- The outcome of an instruction or of a step. -/
abbrev Result := Host.Outcome State Fault Refusal

/-- No transaction: no checkpoint, empty footprint, flags clear (R151, R185 invariant 2). -/
def Facility.idle : Facility where
  tdoomed := false
  checkpoint := none
  readSet := []
  rotReads := []
  writeSet := []
  txData := []
  updatesDiscarded := false
  handleOnResume := false
  pending := []
  latent := []
  awaited := []
  specReads := []
  specWrites := []
  executed := []

/-- Speculative registers at reset: the source gives no value; DESIGN CHOICE 0 (R61; log 1); unsafe. -/
def SpecRegs.zero : SpecRegs where
  gpr := Vector.replicate 32 0
  vsr := Vector.replicate 64 0
  lr := 0
  ctr := 0
  fpscr := 0
  fex := false
  amr := 0
  ppr := 0
  vrsave := 0
  vscr := 0
  dscr := 0
  tar := 0

/-- Special purpose registers at reset: the source gives no value; DESIGN CHOICE 0 (R61; log 1); unsafe. -/
def SprFile.zero : SprFile where
  tfhar := 0
  tfiar := 0
  texasr := 0
  dsisr := 0
  dar := 0
  dec := 0
  sdr1 := 0
  srr0 := 0
  srr1 := 0
  cfar := 0
  ctrl := 0
  uamor := 0
  sprg := Vector.replicate 4 0
  tb := 0
  ear := 0
  pvr := 0
  hsprg0 := 0
  hsprg1 := 0
  hdsisr := 0
  hdar := 0
  spurr := 0
  purr := 0
  hdec := 0
  rmor := 0
  hrmor := 0
  hsrr0 := 0
  hsrr1 := 0
  lpcr := 0
  lpidr := 0
  hmer := 0
  hmeer := 0
  pcr := 0
  heir := 0
  amor := 0
  spefscr := 0
  atb := 0
  perfmon := Vector.replicate 16 0
  dabr := 0
  dabrx := 0
  pir := 0

/-- Control bits at reset: the source gives no value; the default is DESIGN CHOICE 0 (R61; log 1); unsafe. -/
def Controls.zero : Controls where
  hfscrTm := false
  pcrV206 := false
  lpes0 := false
  lpes1 := false
  hile := false
  lpcrIle := false

/-- The parameters' defaults (R6): the nest-overflow cause the RTL prints (C2, log 10; DESIGN CHOICE), and big-endian for MSR.LE = 0,
little-endian for MSR.LE = 1 (PRESUMED, log 4); unsafe. -/
def Params.default : Params where
  orderLe0 := .big
  orderLe1 := .little
  nestOverflowPersistent := false

/-- The machine right after reset (R61, R340, R341), for any reset vector, parameters, PCR and control bits, HFSCR.TM among them:
Non-transactional (source); MSR as the System Reset row of Figure 3 leaves it, with HV = SF = 1, LE from HILE (R290) and TM = 0 (D12); the rest,
no interrupt pending and none due among it, as log 1 names it (DESIGN CHOICE). -/
def State.resetAt (vector : Word) (params : Params) (pcr : Word) (controls : Controls) : State where
  regs := SpecRegs.zero
  cr := 0
  xer := 0
  msr := putBit 0x9000000000000000 63 controls.hile
  nia := wordAlign vector
  sprs := { SprFile.zero with pcr := pcr }
  controls := controls
  tm := Facility.idle
  reservation := none
  power := .running
  mem := ⟨[]⟩
  pages := []
  params := params
  storageLog := []
  pendingInterrupts := []
  tape := []
  draws := 0
  completed := false

/-- The machine right after reset, with the default parameters (R6), and the PCR and the control bits zero (log 1). -/
def State.reset : State := State.resetAt Config.resetVector Params.default 0 Controls.zero

end Sys2Proof.Machine
end

