-- ==== Sys2Proof/Machine/Msr.lean ====
section
/-!
DEFINITION. The fields of the MSR (10_state.md rules R30 to R33) and of TEXASR (R35). The places of the MSR's bits other than TS, TM and SE are
PRESUMED, the Power ISA's (R30, 93 Part 2 item 3; log 6).
-/

namespace Sys2Proof.Machine

/-- Non-transactional (R10). -/
def tsN : BitVec 2 := 0b00
/-- Suspended (R10). -/
def tsS : BitVec 2 := 0b01
/-- Transactional (R10). -/
def tsT : BitVec 2 := 0b10

/-- MSR[29:30] of an MSR image (R30). -/
def msrTs (m : Word) : BitVec 2 := m.extractLsb' 33 2
/-- MSR[29:31] of an MSR image: `TS || TM` (R10). -/
def msrTsTm (m : Word) : BitVec 3 := m.extractLsb' 32 3
/-- The image with TS replaced. -/
def putTs (m : Word) (ts : BitVec 2) : Word := putField m 33 2 ts
/-- The image with `TS || TM` replaced. -/
def putTsTm (m : Word) (v : BitVec 3) : Word := putField m 32 3 v

/-- MSR.SF: 64-bit mode (R7). -/
def msrSf (m : Word) : Bool := bit m 0
/-- MSR.HV (R33). -/
def msrHv (m : Word) : Bool := bit m 3
/-- MSR.TM: the facility is enabled (R32). -/
def msrTm (m : Word) : Bool := bit m 31
/-- MSR.EE. -/
def msrEe (m : Word) : Bool := bit m 48
/-- MSR.PR: problem state (R33). -/
def msrPr (m : Word) : Bool := bit m 49
/-- MSR.ME. -/
def msrMe (m : Word) : Bool := bit m 51
/-- `MSR[FE0 FE1]`: the floating-point exception mode (R285). -/
def msrFe (m : Word) : BitVec 2 := BitVec.ofBool (bit m 52) ++ BitVec.ofBool (bit m 55)
/-- MSR.SE: single-step trace (R30). -/
def msrSe (m : Word) : Bool := bit m 53
/-- MSR.BE: branch trace (R300). -/
def msrBe (m : Word) : Bool := bit m 54
/-- MSR.RI. -/
def msrRi (m : Word) : Bool := bit m 62
/-- MSR.LE (R71). -/
def msrLe (m : Word) : Bool := bit m 63

/-- `ByteOrder` under the thread's MSR.LE (20_memory.md rule R71). -/
def State.byteOrder (s : State) : ByteOrder := if msrLe s.msr then s.params.orderLe1 else s.params.orderLe0

/-- The reservation was established in Transactional state (R100). -/
def Reservation.inTransaction (r : Reservation) : Bool := r.state == tsT

/-- The transaction state (R31). -/
def State.ts (s : State) : BitVec 2 := msrTs s.msr
/-- The thread with its transaction state replaced (R31). -/
def State.setTs (s : State) (ts : BitVec 2) : State := { s with msr := putTs s.msr ts }
/-- A transaction is active: Transactional or Suspended state. -/
def State.active (s : State) : Bool := s.ts == tsT || s.ts == tsS
/-- `MSR[HV PR] = 0b10` (R33). -/
def State.hypervisorState (s : State) : Bool := msrHv s.msr && !msrPr s.msr
/-- `MSR[HV PR]` (R33). -/
def State.hvPr (s : State) : BitVec 2 := BitVec.ofBool (msrHv s.msr) ++ BitVec.ofBool (msrPr s.msr)

/-- The thread's level suffices (R310). -/
def State.mayRun (s : State) : PrivLevel → Bool
  | .problem => true
  | .privileged => !msrPr s.msr
  | .hypervisor => s.hypervisorState

/-- TM is disabled by the PCR: `PCR.TM = 1 | PCR.v2.06 = 1` (R43). -/
def State.tmDisabledByPcr (s : State) : Bool := bit s.sprs.pcr 2 || s.controls.pcrV206

/-! ### TEXASR (R35) -/

/-- The failure cause, TEXASR[0:31]. -/
def texasrCause (x : Word) : Word32 := x.extractLsb' 32 32
/-- TEXASR.Suspended, bit 32. -/
def texasrSuspended (x : Word) : Bool := bit x 32
/-- TEXASR.FS, bit 36. -/
def texasrFs (x : Word) : Bool := bit x 36
/-- TFIAR Exact, bit 37. -/
def texasrExact (x : Word) : Bool := bit x 37
/-- TEXASR.ROT, bit 38. -/
def texasrRot (x : Word) : Bool := bit x 38
/-- TEXASR.TL, bits 52:63. -/
def texasrTl (x : Word) : BitVec 12 := x.extractLsb' 0 12
/-- The image with TL replaced. -/
def putTl (x : Word) (tl : BitVec 12) : Word := putField x 0 12 tl
/-- The live part of TL: its low `t` bits (R38). -/
def liveTl (x : Word) : Nat := (texasrTl x).toNat % 2 ^ Config.t

/-- TEXASR.FS of the thread. -/
def State.fs (s : State) : Bool := texasrFs s.sprs.texasr
/-- TEXASR.ROT of the thread: the active transaction is a ROT (R58). -/
def State.rot (s : State) : Bool := texasrRot s.sprs.texasr

end Sys2Proof.Machine
end

