-- ==== Sys2Proof/Machine/Operands.lean ====
section
/-!
DEFINITION. How an instruction's operands are read and general registers written (30_encoding.md rules R123, R124;
42_tm_abort.md).
-/

namespace Sys2Proof.Machine

/-- `GPR[r]` (R21): no register is hardwired. -/
def State.gpr (s : State) (r : RegNum) : Word := s.regs.gpr[r.toNat]'r.isLt

/-- `GPR[r] <- v` (R21). -/
def State.setGpr (s : State) (r : RegNum) (v : Word) : State :=
  { s with regs := { s.regs with gpr := s.regs.gpr.set r.toNat v r.isLt } }

/-- The value of a register a Store stores, extended with zeros on the left (R82). -/
def State.readData (s : State) : DataReg → BitVec 128
  | .gpr r => (s.gpr r).setWidth 128
  | .fpr r =>
    have h : r.toNat < 64 := Nat.lt_of_lt_of_le r.isLt (by decide)
    ((s.regs.vsr[r.toNat]'h).extractLsb' 64 64).setWidth 128
  | .vr r =>
    have h : 32 + r.toNat < 64 := Nat.add_lt_add_left r.isLt 32
    s.regs.vsr[32 + r.toNat]'h
  | .vsr r => s.regs.vsr[r.toNat]'r.isLt

/-- FPR r: the upper half of VSR r (R53; PRESUMED, log 36). -/
def State.setFpr (s : State) (r : RegNum) (v : Word) : State :=
  have h : r.toNat < 64 := Nat.lt_of_lt_of_le r.isLt (by decide)
  let low := (s.regs.vsr[r.toNat]'h).setWidth 64
  { s with regs := { s.regs with vsr := s.regs.vsr.set r.toNat (v ++ low) h } }

/-- VR r: VSR 32 + r (R53; PRESUMED, log 36). -/
def State.setVr (s : State) (r : RegNum) (v : BitVec 128) : State :=
  have h : 32 + r.toNat < 64 := Nat.add_lt_add_left r.isLt 32
  { s with regs := { s.regs with vsr := s.regs.vsr.set (32 + r.toNat) v h } }

/-- VSR r (R53). -/
def State.setVsr (s : State) (r : BitVec 6) (v : BitVec 128) : State :=
  { s with regs := { s.regs with vsr := s.regs.vsr.set r.toNat v r.isLt } }

/-- A register a Load places its value in: it takes as many low-order bits as it has (R81). -/
def State.setData (s : State) (v : BitVec 128) : DataReg → State
  | .gpr r => s.setGpr r (v.setWidth 64)
  | .fpr r => s.setFpr r (v.setWidth 64)
  | .vr r => s.setVr r v
  | .vsr r => s.setVsr r v

/-- `EXTS(GPR[r][32:63])`: the low word, sign-extended (R212). -/
def State.gprWord (s : State) (r : RegNum) : Word := ((s.gpr r).setWidth 32).signExtend 64

/-- `EXTS(SI)` (R213, R215). -/
def siValue (si : Int) : Word := BitVec.ofInt 64 si

/-- The failure cause of tabort. and treclaim.: 0x00000001 where the field RA is 0, else `GPR[RA][56:63] || 0x000001` (R123, R211,
R231). -/
def State.abortCause (s : State) (ra : RegNum) : Word32 :=
  if ra = 0 then 0x00000001 else (s.gpr ra).setWidth 8 ++ 0x000001#24

/-- A register write of a base instruction (R86). -/
def RegWrite.apply (s : State) : RegWrite → State
  | .gpr r v => s.setGpr r v
  | .vsr r v => s.setVsr r v
  | .fpr r v => s.setFpr r v
  | .vr r v => s.setVr r v
  | .crField i v => { s with cr := putCrField s.cr i v }
  | .lr v => { s with regs := { s.regs with lr := v } }
  | .ctr v => { s with regs := { s.regs with ctr := v } }
  | .xer v => { s with xer := v }
  | .fpscr v => { s with regs := { s.regs with fpscr := v } }
  | .vscr v => { s with regs := { s.regs with vscr := v } }
  | .tar v => { s with regs := { s.regs with tar := v } }
  | .ppr v => { s with regs := { s.regs with ppr := v } }
  | .vrsave v => { s with regs := { s.regs with vrsave := v } }
  | .dscr v => { s with regs := { s.regs with dscr := v } }
  | .amr v => { s with regs := { s.regs with amr := v } }

/-- The registers a base instruction writes, in order (R86). -/
def State.writeRegs (s : State) (writes : List RegWrite) : State := writes.foldl RegWrite.apply s

end Sys2Proof.Machine
end

