-- ==== Sys2Proof/Machine/Ops.lean ====
section
/-!
DEFINITION. The operations the meanings share: completing an instruction, recording and handling a transaction failure
(40_tm_states_failure.md), taking an interrupt (60_exceptions.md), returning from one (46_msr_linkage.md), the availability
check (41_tm_begin_end.md rule R201).
-/

namespace Sys2Proof.Machine

/-! ### Registers, free values, the storage log -/

/-- `CR0 <- v` (R24). -/
def State.setCr0 (s : State) (v : CrField) : State := { s with cr := putCrField s.cr 0 v }

/-- `CR[i] <- v` (R25). -/
def State.setCr (s : State) (i : BitVec 3) (v : CrField) : State := { s with cr := putCrField s.cr i v }

/-- `CR0 <- 0b0 || MSR.TS || 0b0` with the state before the instruction (R24). -/
def State.setCr0State (s : State) : State := s.setCr0 (stateField s.ts)

/-- One free value has been drawn. -/
def State.tick (s : State) : State := { s with draws := s.draws + 1 }

/-- `n` free values have been drawn. -/
def State.ticks (s : State) (n : Nat) : State := { s with draws := s.draws + n }

/-- The instruction completes: `NIA <- CIA + 4` (R22, D14). -/
def State.complete (s : State) : State := { s with nia := s.nia + 4, completed := true }

/-- The storage log with one more event. -/
def State.log (s : State) (e : StorageEvent) : State := { s with storageLog := s.storageLog ++ [e] }

/-- The four calls of `enforce_barrier` that tbegin. and tend. make (R93). -/
def fullBarrier : List StorageEvent := [.barrier .mbll, .barrier .mbls, .barrier .mbsl, .barrier .mbss]

/-- The storage log with the barrier of R94 or R95. -/
def State.logFullBarrier (s : State) : State := { s with storageLog := s.storageLog ++ fullBarrier }

/-! ### Interrupts -/

/-- An entry of Figure 3 (R290, legend). -/
inductive BitRule where
  /-- `0`: set to 0. -/
  | zero
  /-- `1`: set to 1. -/
  | one
  /-- `-`: not altered. -/
  | keep
  /-- `p`: 1 if the interrupt came in power-saving mode, else not altered. -/
  | ifPowerSaving
  /-- `m`: 1 if LPES1 = 0, else not altered. -/
  | ifNotLpes1
  /-- `e`: 1 if LPES0 = 0, else not altered. -/
  | ifNotLpes0
  /-- `h`: 0 if LPES0 = 1, else not altered. -/
  | zeroIfLpes0
  /-- `s`: 1 if LEV = 1 or LPES1 = 0, else not altered. -/
  | ifLevOrNotLpes1 (lev1 : Bool)
  deriving DecidableEq, Repr

/-- The columns RI, ME and HV of a row of Figure 3; the columns IR, DR, FE0, FE1 and EE are 0 in every row (R290). -/
structure MsrRow where
  ri : BitRule
  me : BitRule
  hv : BitRule
  deriving DecidableEq, Repr

/-- The row of the interrupts directed by LPES1: Program and most others. -/
def rowM : MsrRow := ⟨.zero, .keep, .ifNotLpes1⟩
/-- The row of the hypervisor interrupts. -/
def rowHypervisor : MsrRow := ⟨.keep, .keep, .one⟩

/-- Figure 3 (R290). Facility Unavailable takes the Program row and Hypervisor Facility Unavailable the Hypervisor Emulation Assistance row
(D18). Hypervisor Data Segment, which has no row there, takes that of Hypervisor Data Storage: DESIGN CHOICE (log 53); unsafe. -/
def figure3 : InterruptKind → MsrRow
  | .systemReset => ⟨.zero, .ifPowerSaving, .one⟩
  | .machineCheck => ⟨.zero, .zero, .one⟩
  | .dataStorage => rowM
  | .dataSegment => rowM
  | .instructionStorage => rowM
  | .instructionSegment => rowM
  | .external => ⟨.zeroIfLpes0, .keep, .ifNotLpes0⟩
  | .alignment => rowM
  | .program => rowM
  | .fpUnavailable => rowM
  | .decrementer => rowM
  | .hypervisorDecrementer => rowHypervisor
  | .systemCall lev1 => ⟨.zero, .keep, .ifLevOrNotLpes1 lev1⟩
  | .trace => rowM
  | .hypervisorDataStorage => rowHypervisor
  | .hypervisorDataSegment => rowHypervisor
  | .hypervisorInstructionStorage => rowHypervisor
  | .hypervisorEmulationAssistance => rowHypervisor
  | .hypervisorMaintenance => rowHypervisor
  | .performanceMonitor => rowM
  | .vectorUnavailable => rowM
  | .vsxUnavailable => rowM
  | .facilityUnavailable => rowM
  | .hypervisorFacilityUnavailable => rowHypervisor

/-- The new value of a bit under an entry of Figure 3. -/
def State.bitRule (s : State) (old : Bool) : BitRule → Bool
  | .zero => false
  | .one => true
  | .keep => old
  | .ifPowerSaving => s.power != .running || old
  | .ifNotLpes1 => !s.controls.lpes1 || old
  | .ifNotLpes0 => !s.controls.lpes0 || old
  | .zeroIfLpes0 => !s.controls.lpes0 && old
  | .ifLevOrNotLpes1 lev1 => lev1 || !s.controls.lpes1 || old

/-- HV after the interrupt (R290). -/
def State.interruptHv (s : State) (k : InterruptKind) : Bool := s.bitRule (msrHv s.msr) (figure3 k).hv

/-- TS after any interrupt: Transactional becomes Suspended (R290). -/
def interruptTs (ts : BitVec 2) : BitVec 2 := if ts = tsT then tsS else ts

/-- `InterruptMSR(kind, old)` (R290). The bits that can be 1 are SF, HV, TS, ME, RI and LE: every other named bit is set to 0, TM among them,
and the reserved bits are set as if written as 0. -/
def State.interruptMsr (s : State) (k : InterruptKind) : Word :=
  let hv := s.interruptHv k
  let le := if hv then s.controls.hile else s.controls.lpcrIle
  putBit (putBit (putBit (putBit (putBit (putTs 0 (interruptTs s.ts)) 0 true) 3 hv)
    51 (s.bitRule (msrMe s.msr) (figure3 k).me)) 62 (s.bitRule (msrRi s.msr) (figure3 k).ri)) 63 le

/-- The address an interrupt resumes at: the source prints the Trace vector only (R301); the others are parameters
(R113, D4, D18; log 3). -/
def interruptVector : InterruptKind → Word
  | .trace => 0x0000000000000D00
  | k => Config.openVector k

/-- The interrupt saves into HSRR0 and HSRR1. Given for Hypervisor Facility Unavailable (D18); for the rows of Figure 3 that set HV and
leave RI, and for External with LPES0 = 0, PRESUMED from the family (R291; log 37). -/
def State.usesHsrr (s : State) : InterruptKind → Bool
  | .hypervisorFacilityUnavailable => true
  | .hypervisorDecrementer => true
  | .hypervisorDataStorage => true
  | .hypervisorDataSegment => true
  | .hypervisorInstructionStorage => true
  | .hypervisorEmulationAssistance => true
  | .hypervisorMaintenance => true
  | .external => !s.controls.lpes0
  | _ => false

/-- SRR1 bits 33:36 and 42:47, which carry information of the interrupt (R285, R291, R301). -/
def statusMask : Word := maskRange 33 36 ||| maskRange 42 47

/-- The MSR image an interrupt saves: the MSR before it, with the status bits replaced (R285, R291). -/
def savedMsr (msr status : Word) : Word := select statusMask status msr

/-- Interrupt entry (R291): the return address and the MSR image are saved, the MSR is set from Figure 3, and control goes to the vector.
Nothing else of the thread changes: the transaction, if there is one, is suspended by the change of TS. -/
def State.takeInterrupt (s : State) (k : InterruptKind) (returnAddress status : Word) : State :=
  let sprs :=
    if s.usesHsrr k then { s.sprs with hsrr0 := returnAddress, hsrr1 := savedMsr s.msr status }
    else { s.sprs with srr0 := returnAddress, srr1 := savedMsr s.msr status }
  { s with sprs := sprs, msr := s.interruptMsr k, nia := wordAlign (interruptVector k), completed := false }

/-- A Program interrupt whose type is shown by one bit of SRR1; SRR0 is the address of the instruction (R285, D19). -/
def State.programInterrupt (s : State) (typeBit : Nat) : State :=
  s.takeInterrupt .program s.nia (putBit 0 typeBit true)

/-- A Floating-Point Enabled Exception whose SRR0 is the next instruction's address; `bit47` is SRR1 bit 47 (R285). -/
def State.fpAtNext (s : State) (bit47 : Bool) : State := s.takeInterrupt .program s.nia (putBit (putBit 0 43 true) 47 bit47)

/-- A Floating-Point Enabled Exception that is due between two instructions: SRR1 bit 47 can be 1 only where `MSR[FE0 FE1]` is 0b01 or 0b10
(R285; log 51). -/
def State.fpBetween (s : State) : State := s.fpAtNext (msrFe s.msr != 0b11)

/-- A Floating-Point Enabled Exception that is reported precisely (R285). -/
def State.fpPrecise (s : State) : State := s.programInterrupt 43

/-- A Floating-Point Enabled Exception that is enabled and has not been reported (R285). -/
def State.fpDue (s : State) : Bool := s.regs.fex && msrFe s.msr != 0b00

/-- A pending Floating-Point Enabled Exception is enabled by a change of `MSR[FE0 FE1]` from 0b00 (R252, R285). -/
def State.fpEnabledBy (s : State) (newMsr : Word) : Bool := s.regs.fex && msrFe s.msr == 0b00 && msrFe newMsr != 0b00

/-- TM Bad Thing: SRR1 bit 42 (R285, R286). -/
def State.tmBadThing (s : State) : State := s.programInterrupt 42

/-- Privileged Instruction: SRR1 bit 45 (R285, R287, D20). -/
def State.privilegedInstruction (s : State) : State := s.programInterrupt 45

/-- An interrupt whose status bits the source does not give: they are free (R291, R301, U6). That it writes no register but the two save
registers is a DESIGN CHOICE where the source does not say which an interrupt sets (N32; log 37). -/
def State.freeStatusInterrupt (s : State) (k : InterruptKind) (returnAddress : Word) : State :=
  s.tick.takeInterrupt k returnAddress (Config.freeWord s.draws)

/-- Facility Unavailable, Transactional Memory type (R296). -/
def State.facilityUnavailable (s : State) : State := s.freeStatusInterrupt .facilityUnavailable s.nia

/-- Hypervisor Facility Unavailable, Transactional Memory type (R295). -/
def State.hypervisorFacilityUnavailable (s : State) : State :=
  s.freeStatusInterrupt .hypervisorFacilityUnavailable s.nia

/-- Hypervisor Emulation Assistance (R242, R312, U19): the row of Figure 3; whether HEIR is written is not in the source (N32), so HEIR is
free (log 34). -/
def State.emulationAssistance (s : State) : State :=
  let t := s.freeStatusInterrupt .hypervisorEmulationAssistance s.nia
  { t.tick with sprs := { t.sprs with heir := (Config.freeWord t.draws).setWidth 32 } }

/-- The Trace interrupt after a traced instruction: SRR0 is the next instruction's address (R301). -/
def State.traceInterrupt (s : State) : State := s.freeStatusInterrupt .trace s.nia

/-! ### Availability of the facility -/

/-- What the availability check finds (R201). -/
inductive Availability where
  | available | hypervisorUnavailable | unavailable | disabledByPcr
  deriving DecidableEq, Repr

/-- The availability check, in the order of R201; a problem-state use with TM disabled by the PCR is outside the spec (D11). -/
def State.availability (s : State) : Availability :=
  if msrPr s.msr && s.tmDisabledByPcr then .disabledByPcr
  else if !s.hypervisorState && !s.controls.hfscrTm then .hypervisorUnavailable
  else if !msrTm s.msr then .unavailable
  else .available

/-- Run `body` if the facility is available; else the interrupt of R295 or R296, or the refusal of D11. -/
def State.guardTm (s : State) (body : Result) : Result :=
  match s.availability with
  | .available => body
  | .hypervisorUnavailable => .next s.hypervisorFacilityUnavailable
  | .unavailable => .next s.facilityUnavailable
  | .disabledByPcr => .refused .tmDisabledByPcr

/-- Run `body` if the thread's level suffices; else the Privileged Instruction interrupt (R287, R311). -/
def State.guardLevel (s : State) (level : PrivLevel) (body : Result) : Result :=
  if s.mayRun level then body else .next s.privilegedInstruction

/-! ### Transaction failure -/

/-- The failure cause of the aborts and of treclaim. with RA = 0 (R173). -/
def abortCode : Word32 := 0x00000001
/-- A disallowed instruction, SPR or access type: bit 8, and bit 7 (R173). -/
def disallowedCode : Word32 := 0x01800000
/-- `NestOverflowCause`, a parameter: the literal of the RTL, or the same with the Failure Persistent bit (R173, U20, conflict C2). -/
def Params.nestOverflowCode (p : Params) : Word32 := if p.nestOverflowPersistent then 0x01400000 else 0x00400000

/-- The 32-bit cause of an imprecise failure (R173). -/
def ImpreciseKind.code : ImpreciseKind → Word32
  | .footprintOverflow => 0x01200000
  | .selfInducedConflict => 0x01100000
  | .nonTransactionalConflict => 0x00080000
  | .transactionConflict => 0x00040000
  | .translationInvalidation => 0x00020000
  | .implementationSpecific => 0x00010000
  | .instructionFetchConflict => 0x00008000

/-- "TFIAR may be exact" for the cause (R173). -/
def ImpreciseKind.mayBeExact : ImpreciseKind → Bool
  | .footprintOverflow => false
  | .selfInducedConflict => true
  | .nonTransactionalConflict => false
  | .transactionConflict => true
  | .translationInvalidation => false
  | .implementationSpecific => true
  | .instructionFetchConflict => true

/-- TEXASR after a recording (R172): the cause, Suspended only ever set to 1, HV and PR, FS, exact; every other bit unchanged. -/
def texasrRecorded (old : Word) (cause : Word32) (suspended hv pr exact : Bool) : Word :=
  let x := putField old 32 32 cause
  let x := if suspended then putBit x 32 true else x
  putBit (putBit (putBit (putBit x 34 hv) 35 pr) 36 true) 37 exact

/-- TFIAR after a recording: the address in bits 0:61, `MSR.HV || MSR.PR` in bits 62:63 (R172). -/
def tfiarRecorded (address : Word) (hvPr : BitVec 2) : Word := putField address 0 2 hvPr

/-- `TMRecordFailure(cause)` (R172): nothing if a failure is recorded already. `ia` is the address of the causing instruction where it is
known; else the address is free (U7). -/
def State.recordFailure (s : State) (cause : Word32) (ia : Option Word) : State :=
  if s.fs then s
  else
    { s with
      sprs := { s.sprs with
        texasr := texasrRecorded s.sprs.texasr cause (s.ts == tsS) (msrHv s.msr) (msrPr s.msr) ia.isSome
        tfiar := tfiarRecorded (ia.getD (Config.freeWord s.draws)) s.hvPr }
      tm := { s.tm with tdoomed := true }
      draws := if ia.isSome then s.draws else s.draws + 1 }

/-- Record an imprecise cause (R172, R173): where TFIAR may be exact and the causing instruction is known, whether it is exact is free. -/
def State.recordImprecise (s : State) (c : ImpreciseCause) : State :=
  s.tick.recordFailure c.kind.code (if c.kind.mayBeExact && Config.freeBit s.draws then c.ia else none)

/-- The pending cause that is reported: any one of them (R174, U9). Where none is known the cause is Implementation-specific, which needs no
external trigger (U5). -/
def State.chosenCause (s : State) : ImpreciseCause :=
  s.tm.pending[Config.freeIndex s.draws % s.tm.pending.length]?.getD ⟨.implementationSpecific, none⟩

/-- Record a pending cause if nothing is recorded (R170). -/
def State.recordPending (s : State) : State :=
  if s.fs then s else s.tick.recordImprecise s.chosenCause

/-- "Discard speculative storage updates" (R55). -/
def State.discardUpdates (s : State) : State :=
  { s with tm := { s.tm with txData := [], updatesDiscarded := true } }

/-- The values the checkpoint takes: those of the registers now (R52). -/
def State.registersNow (s : State) : Checkpoint := ⟨s.regs, s.cr, s.xer⟩

/-- "Revert speculative registers to pre-transactional values" (R50, R52): CR0 and XER.FXCC are not reverted (R27, R28). -/
def State.revert (s : State) (c : Checkpoint) : State :=
  { s with regs := c.regs, cr := putCrField c.cr 0 (crField s.cr 0), xer := select Config.fxccMask s.xer c.xer }

/-- "Discard all resources related to current transaction", and the state becomes Non-transactional (R55, R205). -/
def State.endTransaction (s : State) : State := { s.setTs tsN with tm := Facility.idle }

/-- `TMHandleFailure()` (R176). The reservation is lost: T to N (R100). -/
def State.handleFailure (s : State) : Result :=
  match s.tm.checkpoint with
  | none => .fault .noCheckpoint
  | some c =>
    .next { ((s.revert c).endTransaction.setCr0 failureField) with
      nia := wordAlign s.sprs.tfhar, reservation := none }

/-- The failure that is pending is handled, and recorded first if it is not yet (R170, R178, R184 steps 2 and 6). No instruction completes. -/
def State.handlePending (s : State) : Result := { s.recordPending with completed := false }.handleFailure

/-- A precise failure of an instruction that is not executed: the failure is recorded with the instruction's address and handled, and
the instruction is not traced (R168, R178, R302). -/
def State.failNotExecuted (s : State) (cause : Word32) : Result :=
  ({ s with completed := false }.recordFailure cause (some s.nia)).handleFailure

/-- An instruction disallowed in Transactional state (R162, R163, R173). -/
def State.failDisallowed (s : State) : Result := s.failNotExecuted disallowedCode

/-- The tail of the abort instructions (R210): in T the failure is recorded and handled; in S the speculative storage updates are
discarded, the failure is recorded, and the rest of handling is owed on resume (R180). The instruction completes (R300). -/
def State.abort (s : State) (cause : Word32) : Result :=
  if s.ts = tsT then ({ s with completed := true }.recordFailure cause (some s.nia)).handleFailure
  else
    let t := s.discardUpdates.recordFailure cause (some s.nia)
    .next { t with tm := { t.tm with handleOnResume := true } }.complete

/-- The reservation after a change from Suspended to Transactional: kept if established in Transactional state (R100). -/
def State.reservationOnResume (s : State) : Option Reservation := s.reservation.filter (·.inTransaction)

/-- After a change from Suspended to Transactional: the rest of failure handling if it is owed (R180). -/
def State.afterResume (s : State) : Result := if s.tm.handleOnResume then s.handleFailure else .next s

/-! ### Return from interrupt -/

/-- The result of Table 2 (R251). -/
inductive Transition where
  | keep
  | write (v : BitVec 3)
  | badThing
  deriving DecidableEq, Repr

/-- Table 2 as a function of the current and the input `TS || TM` (R250, R251). -/
def tmTransition (cur inp : BitVec 3) : Transition :=
  if cur = 0b010 && inp = 0b000 then .keep
  else
    let legal :=
      if cur.extractLsb' 1 2 = tsN then inp.extractLsb' 1 2 == tsN
      else if cur.extractLsb' 1 2 = tsS then inp == 0b101 || inp.extractLsb' 1 2 == tsS
      else false
    if legal then .write inp else .badThing

/-- The MSR with `TS || TM` as Table 2 leaves it. -/
def Transition.applyTo (m : Word) : Transition → Word
  | .keep => m
  | .write v => putTsTm m v
  | .badThing => m

/-- A return to problem state with an active transaction while TM is disabled by the PCR (R256, D17), judged on the MSR that would
result. -/
def State.pcrBadThing (s : State) (newMsr : Word) : Bool :=
  msrPr newMsr && (msrTs newMsr == tsT || msrTs newMsr == tsS) && s.tmDisabledByPcr

/-- What rfid, hrfid and mtmsrd L=0 share (R251 to R256), their exceptions in the order of list G (R323): TM Bad Thing, then Floating-Point
Enabled, which comes before failure handling that is owed (R200). `image` supplies `TS || TM`, `loaded` is the MSR with every other bit as the
instruction writes it, `next` the next instruction's address under the new MSR. Where handling is owed and would run, the address that would come
next is the failure handler's (R252 corner case a), and a Floating-Point Enabled interrupt saves it: DESIGN CHOICE (log 51). -/
def State.loadMsr (s : State) (image loaded : Word) (next : Word → Word) (traced : Bool) : Result :=
  let transition := tmTransition (msrTsTm s.msr) (msrTsTm image)
  let newMsr := transition.applyTo loaded
  if transition = .badThing || s.pcrBadThing newMsr then .next s.tmBadThing
  else
    let resumes := s.ts == tsS && msrTs newMsr == tsT
    let t := { s with
      msr := newMsr, completed := traced
      nia := if resumes && s.tm.handleOnResume then wordAlign s.sprs.tfhar else next newMsr
      reservation := if resumes then s.reservationOnResume else s.reservation }
    if s.fpEnabledBy newMsr then .next (t.fpAtNext true)
    else if resumes then t.afterResume
    else .next t

/-- The MSR with the bits of `mask` loaded from an image, and EE, IR, DR each the OR of its own bit and the image's PR
bit (R252 to R254). -/
def loadMsrBits (mask old image : Word) : Word :=
  let pr := bit image 49
  putBit (putBit (putBit (select mask image old) 48 (bit image 48 || pr)) 58 (bit image 58 || pr)) 59 (bit image 59 || pr)

/-- `<-iea`: an instruction address under a new MSR; 32 bits in 32-bit mode (R252). -/
def returnAddress (newMsr address : Word) : Word :=
  if msrSf newMsr then wordAlign address else low32 (wordAlign address)

end Sys2Proof.Machine
end

