-- ==== Sys2Proof/Machine/MsrLinkage.lean ====
section
/-!
DEFINITION. rfid, hrfid and mtmsrd (46_msr_linkage.md).
-/

namespace Sys2Proof.Machine

/-- In Transactional state the instruction is disallowed: the transaction fails and it is not executed (R162, R255). -/
def State.unlessTransactional (s : State) (body : Result) : Result := if s.ts = tsT then s.failDisallowed else body

/-- The bits rfid copies besides those it treats one by one: 0:2, 4:28, 32, 37:41, 49:50, 52:57, 60:63 (R252). -/
def rfidMask : Word :=
  maskRange 0 2 ||| maskRange 4 28 ||| maskRange 32 32 ||| maskRange 37 41 ||| maskRange 49 50 ||| maskRange 52 57 |||
    maskRange 60 63

/-- The bits hrfid copies: 0:28, 32, 37:41, 49:57, 60:63 (R253). -/
def hrfidMask : Word :=
  maskRange 0 28 ||| maskRange 32 32 ||| maskRange 37 41 ||| maskRange 49 57 ||| maskRange 60 63

/-- The bits mtmsrd L=0 copies: 0:2, 4:28, 32:47, 49:50, 52:57, 60:62 (R254). -/
def mtmsrdMask : Word :=
  maskRange 0 2 ||| maskRange 4 28 ||| maskRange 32 47 ||| maskRange 49 50 ||| maskRange 52 57 ||| maskRange 60 62

/-- The bits mtmsrd L=1 copies: 48 and 62 (R254). -/
def mtmsrdLMask : Word := maskRange 48 48 ||| maskRange 62 62

/-- The MSR rfid loads, but for `TS || TM` (R252): bit 51 is taken from SRR1 if MSR[3] was 1, and bit 3 can only be cleared. -/
def rfidMsr (msr srr1 : Word) : Word :=
  putBit (putBit (loadMsrBits rfidMask msr srr1) 51 ((bit msr 3 && bit srr1 51) || (!bit msr 3 && bit msr 51)))
    3 (bit msr 3 && bit srr1 3)

/-- Return From Interrupt Doubleword (R252). It is never traced (R300). -/
def execRfid (s : State) : Result :=
  s.guardLevel .privileged (s.unlessTransactional
    (s.loadMsr s.sprs.srr1 (rfidMsr s.msr s.sprs.srr1) (fun m => returnAddress m s.sprs.srr0) false))

/-- Hypervisor Return From Interrupt Doubleword (R253); hypervisor privileged, PRESUMED (R253, R311; log 18). It is never traced (R300). -/
def execHrfid (s : State) : Result :=
  s.guardLevel .hypervisor (s.unlessTransactional
    (s.loadMsr s.sprs.hsrr1 (loadMsrBits hrfidMask s.msr s.sprs.hsrr1) (fun m => returnAddress m s.sprs.hsrr0) false))

/-- Move To Machine State Register Doubleword (R254). -/
def execMtmsrd (rs : RegNum) (l : Bool) (s : State) : Result :=
  s.guardLevel .privileged (s.unlessTransactional
    (if l then .next { s with msr := select mtmsrdLMask (s.gpr rs) s.msr }.complete
     else s.loadMsr (s.gpr rs) (loadMsrBits mtmsrdMask s.msr (s.gpr rs)) (fun _ => s.nia + 4) true))

end Sys2Proof.Machine
end

