-- ==== Sys2Proof/Machine/PowerSaving.lean ====
section
/-!
DEFINITION. doze, nap, sleep and rvwinkle (47_power_saving.md), and leaving a power-saving level.
-/

namespace Sys2Proof.Machine

/-- What the four instructions share (R270): hypervisor privileged; disallowed in T; TM Bad Thing in S; in N the thread enters the level. It
is not traced: the thread stops. -/
def State.enterPowerSaving (s : State) (level : PowerLevel) : Result :=
  s.guardLevel .hypervisor
    (if s.ts = tsT then s.failDisallowed
     else if s.ts = tsS then .next s.tmBadThing
     else .next { s.complete with power := level, completed := false })

/-- Doze (R271). -/
def execDoze (s : State) : Result := s.enterPowerSaving .doze

/-- Nap (R272). -/
def execNap (s : State) : Result := s.enterPowerSaving .nap

/-- Sleep (R273). -/
def execSleep (s : State) : Result := s.enterPowerSaving .sleep

/-- Rip Van Winkle (R274). -/
def execRvwinkle (s : State) : Result := s.enterPowerSaving .rvwinkle

/-- The special purpose registers after nap: the Decrementer and the hypervisor resources of Figure 1, its `hypv` rows, are kept (R46,
R272). -/
def napSprs (kept lost : SprFile) : SprFile :=
  { lost with
    dec := kept.dec, sdr1 := kept.sdr1, tb := kept.tb, ear := kept.ear, hsprg0 := kept.hsprg0, hsprg1 := kept.hsprg1
    hdsisr := kept.hdsisr, hdar := kept.hdar, spurr := kept.spurr, purr := kept.purr, hdec := kept.hdec
    rmor := kept.rmor, hrmor := kept.hrmor, hsrr0 := kept.hsrr0, hsrr1 := kept.hsrr1, lpcr := kept.lpcr
    lpidr := kept.lpidr, hmer := kept.hmer, hmeer := kept.hmeer, pcr := kept.pcr, heir := kept.heir
    amor := kept.amor, dabr := kept.dabr, dabrx := kept.dabrx }

/-- The thread's registers lost: every one free, but for the transaction state, which is Non-transactional in every power-saving
level (R270, U8; log 30). NIA is lost with them, so that the exit from nap, sleep or rvwinkle saves a free word-aligned address: DESIGN CHOICE,
since the source does not say where execution resumes (R291, N21; log 30). -/
def State.loseRegisters (s : State) : State :=
  { s with
    regs := Config.lostRegs s.draws
    cr := (Config.freeWord s.draws).setWidth 32
    xer := Config.freeWord (s.draws + 1)
    msr := putTs (Config.freeWord (s.draws + 2)) s.ts
    nia := wordAlign (Config.freeWord (s.draws + 3))
    reservation := Config.lostReservation s.draws
    draws := s.draws + 4 }

/-- The exceptions for which the exit from any level may find lost what they would lose outside power-saving mode (R270). -/
def AsyncInterrupt.mayLoseState : AsyncInterrupt → Bool
  | .systemReset => true
  | .machineCheck => true
  | .hypervisorMaintenance => true
  | .external => false
  | .decrementer => false
  | .hypervisorDecrementer => false
  | .performanceMonitor => false

/-- Every register of the thread lost, the HRMOR among them (R270). -/
def State.loseAll (s : State) : State :=
  { s.loseRegisters with sprs := Config.lostSprs s.draws, controls := Config.lostControls s.draws }

/-- What a power-saving level leaves (R271 to R274, U8). nap keeps the control bits without a register, which are taken as hypervisor
resources: DESIGN CHOICE (log 30); unsafe. -/
def State.afterLevel (s : State) : State :=
  match s.power with
  | .running => s
  | .doze => s
  | .nap => { s.loseRegisters with sprs := napSprs s.sprs (Config.lostSprs s.draws) }
  | .sleep => { s.loseAll with sprs := { Config.lostSprs s.draws with hrmor := s.sprs.hrmor } }
  | .rvwinkle => { s.loseAll with sprs := { Config.lostSprs s.draws with hrmor := s.sprs.hrmor } }

/-- What the exit by an interrupt finds: what the level left, or, for an exception that may lose state, perhaps nothing (R270). -/
def State.afterPowerSaving (s : State) (i : AsyncInterrupt) : State :=
  if i.mayLoseState && Config.freeBit s.draws then s.tick.loseAll else s.tick.afterLevel

end Sys2Proof.Machine
end

