-- ==== Sys2Proof/Machine/Sprs.lean ====
section
/-!
DEFINITION. The special purpose registers: Figure 1 (10_state.md rule R46) and how each is read and written (45_spr_moves.md).
-/

namespace Sys2Proof.Machine

/-- The registers an SPR number can name (R46). A register with several numbers that read or write it differently has several names here. -/
inductive Spr where
  | xer | lr | ctr
  /-- AMR by its problem-state number, 13. -/
  | amrUser
  /-- AMR by its privileged number, 29. -/
  | amr
  | dscr | dsisr | dar | dec | sdr1 | srr0 | srr1 | cfar
  | tfhar | tfiar | texasr
  /-- The upper half of TEXASR (R40). -/
  | texasru
  | ctrl | uamor | vrsave | sprg (i : Fin 4)
  | tb
  /-- The upper half of the Time Base. -/
  | tbu
  /-- The lower half of the Time Base. -/
  | tbl
  /-- The upper 40 bits of the Time Base. -/
  | tbu40
  | ear | pvr | hsprg0 | hsprg1 | hdsisr | hdar | spurr | purr | hdec | rmor | hrmor | hsrr0 | hsrr1 | lpcr | lpidr
  | hmer | hmeer | pcr | heir | amor | spefscr | atb
  /-- The upper half of the Alternate Time Base. -/
  | atbu
  | perfmon (i : Fin 16)
  | ppr
  /-- The upper half of the PPR (R50). -/
  | ppr32
  | dabr | dabrx | pir
  deriving DecidableEq, Repr

/-- A row of Figure 1: the number, the register, and the level mtspr and mfspr need; `none` where "this register is not defined for this
instruction" (R46). -/
structure SprRow where
  num : Nat
  reg : Spr
  mtspr : Option PrivLevel
  mfspr : Option PrivLevel
  deriving DecidableEq, Repr

/-- Figure 1, SPR 1 to 29. -/
def sprTableA : List SprRow :=
  [⟨1, .xer, (some .problem), (some .problem)⟩,
   ⟨8, .lr, (some .problem), (some .problem)⟩,
   ⟨9, .ctr, (some .problem), (some .problem)⟩,
   ⟨13, .amrUser, (some .problem), (some .problem)⟩,
   ⟨17, .dscr, (some .privileged), (some .privileged)⟩,
   ⟨18, .dsisr, (some .privileged), (some .privileged)⟩,
   ⟨19, .dar, (some .privileged), (some .privileged)⟩,
   ⟨22, .dec, (some .privileged), (some .privileged)⟩,
   ⟨25, .sdr1, (some .hypervisor), (some .hypervisor)⟩,
   ⟨26, .srr0, (some .privileged), (some .privileged)⟩,
   ⟨27, .srr1, (some .privileged), (some .privileged)⟩,
   ⟨28, .cfar, (some .privileged), (some .privileged)⟩,
   ⟨29, .amr, (some .privileged), (some .privileged)⟩]

/-- Figure 1, SPR 128 to 269. -/
def sprTableB : List SprRow :=
  [⟨128, .tfhar, (some .problem), (some .problem)⟩,
   ⟨129, .tfiar, (some .problem), (some .problem)⟩,
   ⟨130, .texasr, (some .problem), (some .problem)⟩,
   ⟨131, .texasru, (some .problem), (some .problem)⟩,
   ⟨136, .ctrl, none, (some .problem)⟩,
   ⟨152, .ctrl, (some .privileged), none⟩,
   ⟨157, .uamor, (some .privileged), (some .privileged)⟩,
   ⟨256, .vrsave, (some .problem), (some .problem)⟩,
   ⟨259, (.sprg 3), none, (some .problem)⟩,
   ⟨268, .tb, none, (some .problem)⟩,
   ⟨269, .tbu, none, (some .problem)⟩]

/-- Figure 1, SPR 272 to 287. -/
def sprTableC : List SprRow :=
  [⟨272, (.sprg 0), (some .privileged), (some .privileged)⟩,
   ⟨273, (.sprg 1), (some .privileged), (some .privileged)⟩,
   ⟨274, (.sprg 2), (some .privileged), (some .privileged)⟩,
   ⟨275, (.sprg 3), (some .privileged), (some .privileged)⟩,
   ⟨282, .ear, (some .hypervisor), (some .hypervisor)⟩,
   ⟨284, .tbl, (some .hypervisor), none⟩,
   ⟨285, .tbu, (some .hypervisor), none⟩,
   ⟨286, .tbu40, (some .hypervisor), none⟩,
   ⟨287, .pvr, none, (some .privileged)⟩]

/-- Figure 1, SPR 304 to 349. -/
def sprTableD : List SprRow :=
  [⟨304, .hsprg0, (some .hypervisor), (some .hypervisor)⟩,
   ⟨305, .hsprg1, (some .hypervisor), (some .hypervisor)⟩,
   ⟨306, .hdsisr, (some .hypervisor), (some .hypervisor)⟩,
   ⟨307, .hdar, (some .hypervisor), (some .hypervisor)⟩,
   ⟨308, .spurr, (some .hypervisor), (some .privileged)⟩,
   ⟨309, .purr, (some .hypervisor), (some .privileged)⟩,
   ⟨310, .hdec, (some .hypervisor), (some .hypervisor)⟩,
   ⟨312, .rmor, (some .hypervisor), (some .hypervisor)⟩,
   ⟨313, .hrmor, (some .hypervisor), (some .hypervisor)⟩,
   ⟨314, .hsrr0, (some .hypervisor), (some .hypervisor)⟩,
   ⟨315, .hsrr1, (some .hypervisor), (some .hypervisor)⟩,
   ⟨318, .lpcr, (some .hypervisor), (some .hypervisor)⟩,
   ⟨319, .lpidr, (some .hypervisor), (some .hypervisor)⟩,
   ⟨336, .hmer, (some .hypervisor), (some .hypervisor)⟩,
   ⟨337, .hmeer, (some .hypervisor), (some .hypervisor)⟩,
   ⟨338, .pcr, (some .hypervisor), (some .hypervisor)⟩,
   ⟨339, .heir, (some .hypervisor), (some .hypervisor)⟩,
   ⟨349, .amor, (some .hypervisor), (some .hypervisor)⟩]

/-- Figure 1, SPR 512 to 1023 but for the performance monitor registers. -/
def sprTableE : List SprRow :=
  [⟨512, .spefscr, (some .problem), (some .problem)⟩,
   ⟨526, .atb, none, (some .problem)⟩,
   ⟨527, .atbu, none, (some .problem)⟩,
   ⟨896, .ppr, (some .problem), (some .problem)⟩,
   ⟨898, .ppr32, (some .problem), (some .problem)⟩,
   ⟨1013, .dabr, (some .hypervisor), (some .hypervisor)⟩,
   ⟨1015, .dabrx, (some .hypervisor), (some .hypervisor)⟩,
   ⟨1023, .pir, none, (some .privileged)⟩]

/-- Figure 1, SPR 768 to 783 (read) and 784 to 799 (read and write): the performance monitor registers (R46, R48). That
784 + i and 768 + i are one register is PRESUMED (log 33). -/
def sprTablePerfmon : List SprRow :=
  (List.finRange 16).map (fun i => ⟨768 + i.val, .perfmon i, none, some .problem⟩) ++
    (List.finRange 16).map (fun i => ⟨784 + i.val, .perfmon i, some .privileged, some .privileged⟩)

/-- Figure 1 (R46). Every row is taken as implemented (log 31). -/
def sprTable : List SprRow :=
  sprTableA ++ sprTableB ++ sprTableC ++ sprTableD ++ sprTableE ++ sprTablePerfmon

/-- The row of an SPR number. -/
def sprRow (n : Nat) : Option SprRow := sprTable.find? fun r => r.num == n

/-- The row and the level mfspr needs, if the number is defined for mfspr. -/
def mfsprRow (n : Nat) : Option (Spr × PrivLevel) := (sprRow n).bind fun r => r.mfspr.map fun l => (r.reg, l)

/-- The row and the level mtspr needs, if the number is defined for mtspr. -/
def mtsprRow (n : Nat) : Option (Spr × PrivLevel) := (sprRow n).bind fun r => r.mtspr.map fun l => (r.reg, l)

/-- A TM SPR: 128 to 131 (R42, R241). -/
def Spr.isTm : Spr → Bool
  | .tfhar => true
  | .tfiar => true
  | .texasr => true
  | .texasru => true
  | _ => false

/-- A register of the speculative set, or a part or another name of one (R50, R163, R245). SPEFSCR, SPR 512, is not in it: DESIGN CHOICE after
R50's table and R163's list, against R50's general sentence (log 55); unsafe. -/
def Spr.isSpeculative : Spr → Bool
  | .xer => true
  | .lr => true
  | .ctr => true
  | .amrUser => true
  | .amr => true
  | .dscr => true
  | .vrsave => true
  | .ppr => true
  | .ppr32 => true
  | _ => false

/-- The upper 32 bits of a 64-bit register. -/
def upperHalf (x : Word) : Word32 := x.extractLsb' 32 32

/-- `SPR(n)`; a 32-bit register is extended with zeros on the left (R240). -/
def State.readSpr (s : State) : Spr → Word
  | .xer => s.xer
  | .lr => s.regs.lr
  | .ctr => s.regs.ctr
  | .amrUser => s.regs.amr
  | .amr => s.regs.amr
  | .dscr => s.regs.dscr
  | .ppr => s.regs.ppr
  | .vrsave => s.regs.vrsave.setWidth 64
  | .ppr32 => (upperHalf s.regs.ppr).setWidth 64
  | .dar => s.sprs.dar
  | .sdr1 => s.sprs.sdr1
  | .srr0 => s.sprs.srr0
  | .srr1 => s.sprs.srr1
  | .cfar => s.sprs.cfar
  | .tfhar => s.sprs.tfhar
  | .tfiar => s.sprs.tfiar
  | .texasr => s.sprs.texasr
  | .uamor => s.sprs.uamor
  | .tb => s.sprs.tb
  | .hsprg0 => s.sprs.hsprg0
  | .hsprg1 => s.sprs.hsprg1
  | .hdar => s.sprs.hdar
  | .spurr => s.sprs.spurr
  | .purr => s.sprs.purr
  | .rmor => s.sprs.rmor
  | .hrmor => s.sprs.hrmor
  | .hsrr0 => s.sprs.hsrr0
  | .hsrr1 => s.sprs.hsrr1
  | .lpcr => s.sprs.lpcr
  | .hmer => s.sprs.hmer
  | .hmeer => s.sprs.hmeer
  | .pcr => s.sprs.pcr
  | .amor => s.sprs.amor
  | .atb => s.sprs.atb
  | .dabr => s.sprs.dabr
  | .dabrx => s.sprs.dabrx
  | .dsisr => s.sprs.dsisr.setWidth 64
  | .dec => s.sprs.dec.setWidth 64
  | .ctrl => s.sprs.ctrl.setWidth 64
  | .ear => s.sprs.ear.setWidth 64
  | .pvr => s.sprs.pvr.setWidth 64
  | .hdsisr => s.sprs.hdsisr.setWidth 64
  | .hdec => s.sprs.hdec.setWidth 64
  | .lpidr => s.sprs.lpidr.setWidth 64
  | .heir => s.sprs.heir.setWidth 64
  | .spefscr => s.sprs.spefscr.setWidth 64
  | .pir => s.sprs.pir.setWidth 64
  | .texasru => (upperHalf s.sprs.texasr).setWidth 64
  | .tbu => (upperHalf s.sprs.tb).setWidth 64
  | .tbl => (s.sprs.tb.setWidth 32).setWidth 64
  | .tbu40 => select (maskRange 0 39) s.sprs.tb 0
  | .atbu => (upperHalf s.sprs.atb).setWidth 64
  | .sprg i => s.sprs.sprg[i]
  | .perfmon i => s.sprs.perfmon[i]

/-- The thread with its special purpose registers outside the checkpoint changed. -/
def State.withSprs (s : State) (f : SprFile → SprFile) : State := { s with sprs := f s.sprs }

/-- A value that "may be masked" or "may be ANDed" with another register before it is placed (R46 notes 6 and 7): whether it is, is
free, since the description is not in the source (log 32). -/
def State.perhaps (s : State) (masked plain : Word) : Word := if Config.freeBit s.draws then masked else plain

/-- `SPR(n) <- v`; a 32-bit register takes the low-order 32 bits (R241). The AMR by its number 13 is masked, if at all, by the UAMOR and by
number 29 by the AMOR, and a bit that is masked out keeps its value, while the UAMOR is ANDed with the AMOR: DESIGN CHOICE (log 32). The LPCR
and the PCR do not reach the control bits held apart (log 52). -/
def State.writeSpr (s : State) (v : Word) : Spr → State
  | .xer => { s with xer := v }
  | .lr => { s with regs := { s.regs with lr := v } }
  | .ctr => { s with regs := { s.regs with ctr := v } }
  | .dscr => { s with regs := { s.regs with dscr := v } }
  | .ppr => { s with regs := { s.regs with ppr := v } }
  | .vrsave => { s with regs := { s.regs with vrsave := v.setWidth 32 } }
  | .ppr32 => { s with regs := { s.regs with ppr := putField s.regs.ppr 32 32 (v.setWidth 32) } }
  | .amrUser =>
    { s.tick with regs := { s.regs with amr := s.perhaps (select s.sprs.uamor v s.regs.amr) v } }
  | .amr => { s.tick with regs := { s.regs with amr := s.perhaps (select s.sprs.amor v s.regs.amr) v } }
  | .uamor => s.tick.withSprs fun r => { r with uamor := s.perhaps (v &&& s.sprs.amor) v }
  | .dar => s.withSprs fun r => { r with dar := v }
  | .sdr1 => s.withSprs fun r => { r with sdr1 := v }
  | .srr0 => s.withSprs fun r => { r with srr0 := v }
  | .srr1 => s.withSprs fun r => { r with srr1 := v }
  | .cfar => s.withSprs fun r => { r with cfar := v }
  | .tfhar => s.withSprs fun r => { r with tfhar := v }
  | .tfiar => s.withSprs fun r => { r with tfiar := v }
  | .texasr => s.withSprs fun r => { r with texasr := v }
  | .tb => s.withSprs fun r => { r with tb := v }
  | .hsprg0 => s.withSprs fun r => { r with hsprg0 := v }
  | .hsprg1 => s.withSprs fun r => { r with hsprg1 := v }
  | .hdar => s.withSprs fun r => { r with hdar := v }
  | .spurr => s.withSprs fun r => { r with spurr := v }
  | .purr => s.withSprs fun r => { r with purr := v }
  | .rmor => s.withSprs fun r => { r with rmor := v }
  | .hrmor => s.withSprs fun r => { r with hrmor := v }
  | .hsrr0 => s.withSprs fun r => { r with hsrr0 := v }
  | .hsrr1 => s.withSprs fun r => { r with hsrr1 := v }
  | .lpcr => s.withSprs fun r => { r with lpcr := v }
  | .hmeer => s.withSprs fun r => { r with hmeer := v }
  | .pcr => s.withSprs fun r => { r with pcr := v }
  | .amor => s.withSprs fun r => { r with amor := v }
  | .atb => s.withSprs fun r => { r with atb := v }
  | .dabr => s.withSprs fun r => { r with dabr := v }
  | .dabrx => s.withSprs fun r => { r with dabrx := v }
  | .hmer => s.withSprs fun r => { r with hmer := r.hmer &&& v }
  | .dsisr => s.withSprs fun r => { r with dsisr := v.setWidth 32 }
  | .dec => s.withSprs fun r => { r with dec := v.setWidth 32 }
  | .ctrl => s.withSprs fun r => { r with ctrl := v.setWidth 32 }
  | .ear => s.withSprs fun r => { r with ear := v.setWidth 32 }
  | .pvr => s.withSprs fun r => { r with pvr := v.setWidth 32 }
  | .hdsisr => s.withSprs fun r => { r with hdsisr := v.setWidth 32 }
  | .hdec => s.withSprs fun r => { r with hdec := v.setWidth 32 }
  | .lpidr => s.withSprs fun r => { r with lpidr := v.setWidth 32 }
  | .heir => s.withSprs fun r => { r with heir := v.setWidth 32 }
  | .spefscr => s.withSprs fun r => { r with spefscr := v.setWidth 32 }
  | .pir => s.withSprs fun r => { r with pir := v.setWidth 32 }
  | .texasru => s.withSprs fun r => { r with texasr := putField r.texasr 32 32 (v.setWidth 32) }
  | .tbu => s.withSprs fun r => { r with tb := putField r.tb 32 32 (v.setWidth 32) }
  | .tbl => s.withSprs fun r => { r with tb := putField r.tb 0 32 (v.setWidth 32) }
  | .tbu40 => s.withSprs fun r => { r with tb := select (maskRange 0 39) v r.tb }
  | .atbu => s.withSprs fun r => { r with atb := putField r.atb 32 32 (v.setWidth 32) }
  | .sprg i => s.withSprs fun r => { r with sprg := r.sprg.set i v }
  | .perfmon i => s.withSprs fun r => { r with perfmon := r.perfmon.set i v }

/-- The reader may see a TFIAR recorded at the level `TFIAR[62:63]` (R240). -/
def tfiarVisible (reader recorded : BitVec 2) : Bool :=
  reader == 0b10 || recorded == reader || (reader == 0b00 && recorded == 0b01)

/-- What mfspr reads: the register, but zero for a TFIAR recorded in a more privileged state (R240). -/
def State.mfsprValue (s : State) (reg : Spr) : Word :=
  if reg = .tfiar && !tfiarVisible s.hvPr (s.sprs.tfiar.extractLsb' 0 2) then 0 else s.readSpr reg

/-- `spr0`: the bit of value 16 of the SPR number (R242). -/
def spr0 (n : Nat) : Bool := n.testBit 4

/-- mfspr or mtspr of an SPR number that is not defined (R242). -/
def State.undefinedSpr (s : State) (n : Nat) : State :=
  if spr0 n then (if msrPr s.msr then s.privilegedInstruction else s.complete)
  else if msrPr s.msr || n == 0 then s.emulationAssistance
  else s.complete

end Sys2Proof.Machine
end

