-- ==== Sys2Proof/Machine/SprMoves.lean ====
section
/-!
DEFINITION. mfspr and mtspr (45_spr_moves.md).
-/

namespace Sys2Proof.Machine

/-- Move From Special Purpose Register (R240, R242). -/
def execMfspr (rt : RegNum) (spr : Nat) (s : State) : Result :=
  match mfsprRow spr with
  | none => .next (s.undefinedSpr spr)
  | some (reg, level) =>
    let body : Result := .next (s.setGpr rt (s.mfsprValue reg)).complete
    s.guardLevel level (if reg.isTm then s.guardTm body else body)

/-- mtspr of a defined register once its level suffices (R241, R245): a TM SPR only in Non-transactional state; any other register outside the
speculative set fails the transaction in Transactional state. -/
def State.moveToSpr (s : State) (reg : Spr) (v : Word) : Result :=
  if reg.isTm then s.guardTm (if s.ts = tsN then .next (s.writeSpr v reg).complete else .next s.tmBadThing)
  else if s.ts = tsT && !reg.isSpeculative then s.failDisallowed
  else .next (s.writeSpr v reg).complete

/-- mtspr of an undefined number (R163, R242): in Transactional state the transaction fails, but for the Privileged Instruction
interrupt, which comes first (R167, R321; log 34). -/
def State.moveToUndefinedSpr (s : State) (n : Nat) : Result :=
  if s.ts = tsT && !(msrPr s.msr && spr0 n) then s.failDisallowed else .next (s.undefinedSpr n)

/-- Move To Special Purpose Register (R241, R242, R245). -/
def execMtspr (spr : Nat) (rs : RegNum) (s : State) : Result :=
  match mtsprRow spr with
  | none => s.moveToUndefinedSpr spr
  | some (reg, level) => s.guardLevel level (s.moveToSpr reg (s.gpr rs))

end Sys2Proof.Machine
end

