-- ==== Sys2Proof/Machine/TmAbort.lean ====
section
/-!
DEFINITION. The abort instructions (42_tm_abort.md).
-/

namespace Sys2Proof.Machine

/-- An abort with the facility available: CR0 tells the state before, and a transaction that is active fails if the condition holds
(R210 to R215). In Non-transactional state only CR0 is written. -/
def State.abortIf (s : State) (condition : Bool) (cause : Word32) : Result :=
  let t := s.setCr0State
  if condition && s.active then t.abort cause else .next t.complete

/-- Transaction Abort (R211). -/
def execTabort (ra : RegNum) (s : State) : Result := s.guardTm (s.abortIf true (s.abortCause ra))

/-- Transaction Abort Word Conditional (R212). -/
def execTabortwc (cond : BitVec 5) (ra rb : RegNum) (s : State) : Result :=
  s.guardTm (s.abortIf (abortCondition cond (s.gprWord ra) (s.gprWord rb)) abortCode)

/-- Transaction Abort Word Conditional Immediate (R213). -/
def execTabortwci (cond : BitVec 5) (ra : RegNum) (si : Int) (s : State) : Result :=
  s.guardTm (s.abortIf (abortCondition cond (s.gprWord ra) (siValue si)) abortCode)

/-- Transaction Abort Doubleword Conditional (R214). -/
def execTabortdc (cond : BitVec 5) (ra rb : RegNum) (s : State) : Result :=
  s.guardTm (s.abortIf (abortCondition cond (s.gpr ra) (s.gpr rb)) abortCode)

/-- Transaction Abort Doubleword Conditional Immediate (R215). -/
def execTabortdci (cond : BitVec 5) (ra : RegNum) (si : Int) (s : State) : Result :=
  s.guardTm (s.abortIf (abortCondition cond (s.gpr ra) (siValue si)) abortCode)

end Sys2Proof.Machine
end

