-- ==== Sys2Proof/Machine/Conflicts.lean ====
section
/-!
DEFINITION. The transactional footprint, conflicts with it, the imprecise failure causes that arise from them and when they are detected
(20_memory.md rules R75 to R78, R90; 40_tm_states_failure.md rules R161, R164, R166, R169), and pages.
-/

namespace Sys2Proof.Machine

/-! ### Storage blocks and the footprint -/

/-- Two byte addresses lie in one storage block (R75). -/
def sameBlock (a b : Nat) : Bool := a / Config.blockSize == b / Config.blockSize

/-- The footprint entries in the block of one of the addresses. -/
def footHits (foot : List Foot) (addrs : List Nat) : List Foot := foot.filter fun f => addrs.any (sameBlock f.addr)

/-- A block of the footprint is touched. -/
def touches (foot : List Foot) (addrs : List Nat) : Bool := foot.any fun f => addrs.any (sameBlock f.addr)

/-- The accesses that conflicts are judged on: a ROT's loads are not among them (R76 c). -/
def Facility.footprint (f : Facility) : List Foot := f.readSet ++ f.writeSet

/-- Everything the transaction has accessed, a ROT's loads too (R105, R221). -/
def Facility.accessed (f : Facility) : List Foot := f.readSet ++ f.rotReads ++ f.writeSet

/-- What accesses performed out of order, and never executed, touched (R169). -/
def Facility.speculated (f : Facility) : List Foot := f.specReads ++ f.specWrites

/-- The page is in the transaction's footprint (R77): a ROT's loads are not in it. -/
def Facility.usesPage (f : Facility) (base size : Nat) : Bool :=
  f.footprint.any fun x => decide (base ≤ x.addr) && decide (x.addr < base + size)

/-- The address of the instruction of one of some accesses: any of them, where there are several (R173). -/
def State.instructionOf (s : State) (foot : List Foot) : Option Word :=
  (foot[Config.freeIndex s.draws % foot.length]?).map (·.ia)

/-! ### Failure causes -/

/-- A cause of imprecise failure is detected: the active transaction is doomed (R158, R170). -/
def State.detect (s : State) (c : ImpreciseCause) : State :=
  if s.active then { s with tm := { s.tm with tdoomed := true, pending := s.tm.pending ++ [c] } } else s

/-- A cause of imprecise failure has arisen: it is detected now or later (R57, R169; log 28). -/
def State.arise (s : State) (l : Latent) : State :=
  if s.active then
    if Config.freeBit s.draws then s.tick.detect l.cause
    else { s.tick with tm := { s.tm with latent := s.tm.latent ++ [l] } }
  else s

/-- A cause for which the transaction does fail (R161, R166). -/
def State.willFail (s : State) (c : ImpreciseCause) (p : Place) : State := s.arise ⟨c, true, p⟩

/-- A cause for which it is undefined whether the transaction fails (R164, U11, D15): it may never be detected. -/
def State.mayFail (s : State) (c : ImpreciseCause) (p : Place) : State := s.arise ⟨c, false, p⟩

/-- The causes that have arisen and satisfy `p` are settled: a certain one is detected; of the others some are, free, and the rest never
will be. -/
def State.settle (s : State) (p : Latent → Bool) : State :=
  let met := s.tm.latent.filter p
  let found := (met.zipIdx.filter fun l => l.1.certain || Config.freeBit (s.draws + l.2)).map (·.1.cause)
  { s with
    draws := s.draws + met.length
    tm := { s.tm with
      latent := s.tm.latent.filter fun l => !p l
      tdoomed := s.tm.tdoomed || !found.isEmpty
      pending := s.tm.pending ++ found } }

/-- The cause is a conflict on one of the locations: in the block of one, or in the page (R75, R77). -/
def Latent.on (l : Latent) (addrs : List Nat) : Bool :=
  match l.place with
  | .bytes _ conflicting => conflicting.any fun a => addrs.any (sameBlock a)
  | .page base size => addrs.any fun a => decide (base ≤ a) && decide (a < base + size)

/-- The cause is certain and its store has overwritten one of the bytes (10_state.md rule R54). -/
def Latent.overwrote (l : Latent) (addrs : List Nat) : Bool :=
  match l.place with
  | .bytes true stored => l.certain && stored.any addrs.contains
  | .bytes false _ => false
  | .page _ _ => false

/-! ### Pages -/

/-- The page holds the byte address. -/
def Page.covers (p : Page) (a : Nat) : Bool := decide (p.base ≤ a) && decide (a < p.base + p.size)

/-- The page of a byte address. An address no page lists is Caching Enabled, not Write Through Required, Memory Coherence Required, and meets no
exception (log 41). -/
def State.pageAt (s : State) (a : Nat) : Option Page := s.pages.find? fun p => p.covers a

/-- The pages with the Reference and Change bits of those that hold one of the addresses set, and nothing else of them changed (R105). -/
def marked (addrs : List Nat) (setR setC : Bool) (pages : List Page) : List Page :=
  pages.map fun p =>
    { p with
      referenced := p.referenced || (setR && addrs.any p.covers), changed := p.changed || (setC && addrs.any p.covers) }

/-- The thread with the Reference and Change bits of the pages of some addresses set. -/
def State.touchPages (s : State) (addrs : List Nat) (setR setC : Bool) : State :=
  { s with pages := marked addrs setR setC s.pages }

/-- "Acc": the bits may be set; R is set where C is (R105, notes 1 and 2). -/
def State.mayTouchPages (s : State) (addrs : List Nat) (mayChange : Bool) : State :=
  let c := mayChange && Config.freeBit s.draws
  s.tick.tick.touchPages addrs (c || Config.freeBit (s.draws + 1)) c

/-- The Reference and Change bits of an access that is performed: those of a transactional access may be set, those of another access
are (R105). -/
def State.recordAccess (s : State) (isStore : Bool) (addrs : List Nat) : State :=
  if s.ts = tsT then s.mayTouchPages addrs isStore else s.touchPages addrs true isStore

/-- The bits of a transaction's accesses at its commit, by which they are accesses in order: DEDUCED from R105 (log 41). -/
def State.touchCommitted (s : State) : State :=
  (s.touchPages ((s.tm.readSet ++ s.tm.rotReads).map (·.addr)) true false).touchPages (s.tm.writeSet.map (·.addr)) true true

end Sys2Proof.Machine
end

