-- ==== Sys2Proof/Machine/TmBeginEnd.lean ====
section
/-!
DEFINITION. tbegin. and tend. (41_tm_begin_end.md).
-/

namespace Sys2Proof.Machine

/-- TEXASR after an outer tbegin.: `0x000000000 || 0b00 || ROT || 0b0 || 0x000001` (R202, conflict C13). -/
def outerTexasr (rot : Bool) : Word := putBit 1 38 rot

/-- tbegin. in Non-transactional state: an outer transaction begins (R202). The reservation is lost: N to T (R100). -/
def State.beginOuter (s : State) (rot : Bool) : State :=
  let t := { s.setTs tsT with
    sprs := { s.sprs with texasr := outerTexasr rot, tfhar := s.nia + 4 }
    tm := { Facility.idle with checkpoint := some s.registersNow }
    reservation := none }
  if rot then t else t.logFullBarrier

/-- Whether a reservation is lost is undefined here: it is kept or lost (R100, U16). -/
def State.reservationPerhapsLost (s : State) : State :=
  { s.tick with reservation := if Config.freeBit s.draws then s.reservation else none }

/-- tbegin. in Transactional state below the maximum level: a nested transaction begins (R202). A normal tbegin. in a ROT turns it into a
normal transaction, with a barrier. -/
def State.beginNested (s : State) (rot : Bool) : State :=
  let tl := putTl s.sprs.texasr (texasrTl s.sprs.texasr + 1)
  if s.rot && !rot then
    { s with sprs := { s.sprs with texasr := putBit tl 38 false } }.logFullBarrier.reservationPerhapsLost
  else { s with sprs := { s.sprs with texasr := tl } }.reservationPerhapsLost

/-- tbegin. with the facility available (R202). -/
def State.beginTransaction (s : State) (rot : Bool) : Result :=
  let t := s.setCr0State
  if s.ts = tsN then .next (t.beginOuter rot).complete
  else if s.ts = tsT then
    if liveTl s.sprs.texasr = Config.tlMax then t.failNotExecuted s.params.nestOverflowCode
    else .next (t.beginNested rot).complete
  else .next t.complete

/-- Transaction Begin (R202). The A field has no effect (D9; log 12). -/
def execTbegin (_a r : Bool) (s : State) : Result := s.guardTm (s.beginTransaction r)

/-- The storage events of a commit: the cumulative barrier, the aggregate store, the full barrier; for a ROT no barrier, and stores that need
not be an aggregate (R92, R95, R97, R203). -/
def commitEvents (rot : Bool) (cells : List Host.Cell) : List StorageEvent :=
  if rot then [.rotStores cells] else [.cumulativeBarrier, .aggregateStore cells] ++ fullBarrier

/-- "Commit transaction" (R89, R203, R205): every transactional store becomes a store, the transaction's resources are dropped, the speculative
registers keep their values. The reservation is lost: T to N (R100). -/
def State.commit (s : State) : State :=
  { s.endTransaction with
    pages := s.touchCommitted.pages
    mem := s.mem.writeCells s.tm.txData
    sprs := { s.sprs with texasr := putTl s.sprs.texasr 0 }
    reservation := none
    storageLog := s.storageLog ++ commitEvents s.rot s.tm.txData }

/-- tend. that ends one nested transaction (R203). The level after it is free if it was 0, which hardware never produces (U25). That the level
tested and decremented is all 12 bits of TEXASR.TL, not its low t bits, is a DESIGN CHOICE: R203 (c) and U25 leave the width open (log 7). -/
def State.endNested (s : State) : State :=
  let tl := texasrTl s.sprs.texasr
  if tl = 0 then
    { s.tick with sprs := { s.sprs with texasr := putTl s.sprs.texasr ((Config.freeWord s.draws).setWidth 12) } }
      |>.reservationPerhapsLost
  else { s with sprs := { s.sprs with texasr := putTl s.sprs.texasr (tl - 1) } }.reservationPerhapsLost

/-- A commit attempt (R203): a certain cause that has arisen is detected by now (R161, R357), and a doomed transaction fails here, with the
pending cause recorded first if none is (R170). -/
def State.tryCommit (s : State) : Result :=
  let t := s.settle (·.certain)
  if t.tm.tdoomed then { t.recordPending with completed := true }.handleFailure
  else .next s.commit.complete

/-- tend. with the facility available (R203). In Suspended state nothing is written but by the interrupt (conflict C6). That TEXASR.TL = 1
compares all 12 bits of the field, not its low t bits, is a DESIGN CHOICE (log 7). -/
def State.endTransactionLevel (s : State) (a : Bool) : Result :=
  if s.ts = tsS then .next s.tmBadThing
  else
    let t := s.setCr0State
    if s.ts = tsT then
      if a || texasrTl s.sprs.texasr == 1 then t.tryCommit else .next t.endNested.complete
    else .next t.complete

/-- Transaction End (R203). -/
def execTend (a : Bool) (s : State) : Result := s.guardTm (s.endTransactionLevel a)

end Sys2Proof.Machine
end

