-- ==== Sys2Proof/Machine/TmPrivileged.lean ====
section
/-!
DEFINITION. treclaim. and trechkpt. (44_tm_privileged.md).
-/

namespace Sys2Proof.Machine

/-- treclaim. of an active transaction (R231): recorded as a failure, registers reverted, resources discarded, state N, and the failure
handler not invoked. Whether the reservation is lost is undefined (R100, U16). -/
def State.reclaim (s : State) (ra : RegNum) : Result :=
  match s.tm.checkpoint with
  | none => .fault .noCheckpoint
  | some c =>
    let t := s.setCr0State.recordFailure (s.abortCause ra) (some s.nia)
    .next { ((t.revert c).endTransaction).tick with
      reservation := if Config.freeBit s.draws then s.reservation else none }.complete

/-- Transaction Reclaim (R231). -/
def execTreclaim (ra : RegNum) (s : State) : Result :=
  s.guardLevel .privileged (s.guardTm (if s.ts = tsN then .next s.tmBadThing else s.reclaim ra))

/-- trechkpt. that completes (R232): a doomed, suspended transaction with the registers' values as its checkpoint and failure handling owed on
resume (D16). -/
def State.recheckpoint (s : State) : State :=
  { (s.setCr0State.setTs tsS).tick with
    tm := { Facility.idle with
      tdoomed := true
      checkpoint := some s.registersNow
      updatesDiscarded := true
      handleOnResume := true }
    reservation := if Config.freeBit s.draws then s.reservation else none }.complete

/-- Transaction Recheckpoint (R232). -/
def execTrechkpt (s : State) : Result :=
  s.guardLevel .privileged
    (s.guardTm (if s.ts ≠ tsN || !s.fs then .next s.tmBadThing else .next s.recheckpoint))

end Sys2Proof.Machine
end

