-- ==== Sys2Proof/Machine/TmSuspend.lean ====
section
/-!
DEFINITION. tsr. and tcheck (43_tm_suspend_check.md).
-/

namespace Sys2Proof.Machine

/-- tsr. with the facility available (R220). A resume keeps only a reservation established in Transactional state (R100), and is followed
by the rest of failure handling if that is owed (R180). -/
def State.suspendOrResume (s : State) (resume : Bool) : Result :=
  let t := s.setCr0State
  if resume then
    if s.ts = tsS then { (t.setTs tsT).complete with reservation := t.reservationOnResume }.afterResume
    else .next t.complete
  else if s.ts = tsT then .next (t.setTs tsS).complete
  else .next t.complete

/-- Transaction Suspend or Resume (R220). -/
def execTsr (l : Bool) (s : State) : Result := s.guardTm (s.suspendOrResume l)

/-- tcheck with the facility available (R221). Every load is performed when it executes; the wait is for conflicts that already exist on a
location of one of them, which have set TDOOMED before it is copied or never will. In Non-transactional state TDOOMED is undefined, so the bit
copied is free (R54, U2). -/
def State.check (s : State) (bf : BitVec 3) : State :=
  if s.ts = tsN then (s.tick.setCr bf (checkField (Config.freeBit s.draws) s.ts)).complete
  else
    let t := s.settle fun l => l.on s.tm.awaited
    (t.setCr bf (checkField t.tm.tdoomed s.ts)).complete

/-- Transaction Check (R221). -/
def execTcheck (bf : BitVec 3) (s : State) : Result := s.guardTm (.next (s.check bf))

end Sys2Proof.Machine
end

