-- ==== Sys2Proof/Machine/Dispatch.lean ====
section
/-!
DEFINITION. The meaning of each instruction, one arm each.
-/

namespace Sys2Proof.Machine

-- One arm for each row of the opcode table, in its order.
def exec (i : Instr) (s : State) : Host.Outcome State Fault Refusal :=
  match i with
  | .tbegin a r => Sys2Proof.Machine.execTbegin a r s
  | .tend a => Sys2Proof.Machine.execTend a s
  | .tabort ra => Sys2Proof.Machine.execTabort ra s
  | .tabortwc cond ra rb => Sys2Proof.Machine.execTabortwc cond ra rb s
  | .tabortwci cond ra si => Sys2Proof.Machine.execTabortwci cond ra si s
  | .tabortdc cond ra rb => Sys2Proof.Machine.execTabortdc cond ra rb s
  | .tabortdci cond ra si => Sys2Proof.Machine.execTabortdci cond ra si s
  | .tsr l => Sys2Proof.Machine.execTsr l s
  | .tcheck bf => Sys2Proof.Machine.execTcheck bf s
  | .treclaim ra => Sys2Proof.Machine.execTreclaim ra s
  | .trechkpt => Sys2Proof.Machine.execTrechkpt s
  | .mfspr rt spr => Sys2Proof.Machine.execMfspr rt spr s
  | .mtspr spr rs => Sys2Proof.Machine.execMtspr spr rs s
  | .mtmsrd rs l => Sys2Proof.Machine.execMtmsrd rs l s
  | .rfid => Sys2Proof.Machine.execRfid s
  | .hrfid => Sys2Proof.Machine.execHrfid s
  | .doze => Sys2Proof.Machine.execDoze s
  | .nap => Sys2Proof.Machine.execNap s
  | .sleep => Sys2Proof.Machine.execSleep s
  | .rvwinkle => Sys2Proof.Machine.execRvwinkle s

end Sys2Proof.Machine
end

