-- ==== Sys2Proof/Machine/Storage.lean ====
section
/-!
DEFINITION. Data accesses in the three transaction states (20_memory.md rules R74 to R84), the exceptions and disallowed types they meet
(R79, R112), and what the facility notes of them.
-/

namespace Sys2Proof.Machine

/-! ### Addresses and bytes -/

/-- The effective address the thread uses: its low 32 bits in 32-bit mode (R22, D14; log 16). -/
def State.effective (s : State) (ea : Word) : Word := if msrSf s.msr then ea else low32 ea

/-- `n` byte addresses from `ea` on, modulo 2^64. -/
def addressesFrom (ea : Word) (n : Nat) : List Nat := (List.range n).map fun i => (ea + BitVec.ofNat 64 i).toNat

/-- The byte addresses of an operand, in order of increasing effective address, modulo the mode's address size (R112; log 16). -/
def State.operandAddresses (s : State) (ea : Word) (n : Nat) : List Nat :=
  (List.range n).map fun i => (s.effective (ea + BitVec.ofNat 64 i)).toNat

/-- How many bytes an access has (R73). -/
def AccessSize.bytes : AccessSize → Nat
  | .byte => 1
  | .half => 2
  | .word => 4
  | .double => 8

/-- The value of bytes given most significant first. -/
def joinBytes (l : List Byte) : BitVec 128 := l.foldl (fun v b => (v <<< 8) ||| b.setWidth 128) 0

/-- The low `n` bytes of a value, most significant first. -/
def splitBytes (v : BitVec 128) (n : Nat) : List Byte := (List.range n).map fun i => v.extractLsb' (8 * (n - 1 - i)) 8

/-- The other byte order, for the byte-reversed forms. -/
def ByteOrder.reverse : ByteOrder → ByteOrder
  | .big => .little
  | .little => .big

/-- The order of the bytes of an operand: the thread's, or the other. -/
def State.dataOrder (s : State) (reversed : Bool) : ByteOrder := if reversed then s.byteOrder.reverse else s.byteOrder

/-- Bytes loaded in Transactional state join the read set; a ROT's loads are not monitored (R81 c). -/
def State.noteRead (s : State) (addrs : List Nat) : State :=
  let foot := addrs.map fun a => ⟨a, s.nia⟩
  if s.ts = tsT then
    if s.rot then { s with tm := { s.tm with rotReads := s.tm.rotReads ++ foot } }
    else { s with tm := { s.tm with readSet := s.tm.readSet ++ foot } }
  else s

/-- A load that a later tcheck waits for: the three clauses of R221. -/
def State.awaitsLoad (s : State) (addrs : List Nat) : Bool :=
  let accessed := if s.rot then s.tm.writeSet else s.tm.accessed
  (s.ts == tsT && !s.rot) || accessed.any fun f => addrs.contains f.addr

/-- The bytes of a load that a later tcheck waits for: all of them, or none (R221). -/
def State.awaitedBytes (s : State) (addrs : List Nat) : List Nat := if s.awaitsLoad addrs then addrs else []

/-- What the facility notes of a load, in Transactional and Suspended state (R81, R221). -/
def State.noteLoad (s : State) (addrs : List Nat) : State :=
  if s.active then
    { s.noteRead addrs with
      tm := { (s.noteRead addrs).tm with awaited := s.tm.awaited ++ s.awaitedBytes addrs } }
  else s

/-- A load that would show a byte a conflicting store has overwritten: the conflict is detected before (10_state.md rule R54). A byte the
transaction stored itself is not shown. -/
def State.detectOverwritten (s : State) (addrs : List Nat) : State :=
  s.settle fun l => l.overwrote (addrs.filter fun a => (cellAt s.tm.txData a).isNone)

/-! ### Exceptions and disallowed access types -/

/-- What stops a data access: an exception, with the number of bytes that precede the offending one (R112), or in Transactional state a
disallowed type (R79), which fails the transaction or has a pending failure handled (R178). -/
inductive AccessStop where
  | exception (e : DataException) (before : Nat)
  | disallowed
  | pendingFailure
  deriving DecidableEq, Repr

/-- The exception a load or a store of the page meets (R112). -/
def Page.exceptionOf (p : Page) (isStore : Bool) : Option DataException :=
  if isStore then p.storeException else p.loadException

/-- What the page does to an access by its disallowed type (R79), in Transactional state alone. `fails`: the type causes failure here (U11); a
Caching Inhibited store always does, since it cannot be held back (R164). Where it causes none, the attempt is still a synchronizing event: a
failure that is pending is handled (R178). -/
def State.disallowedStop (s : State) (p : Page) (isStore fails : Bool) : Option AccessStop :=
  if s.ts == tsT && (p.cachingInhibited || p.writeThrough || p.coherenceNotRequired) then
    if fails || (isStore && p.cachingInhibited) then some .disallowed
    else if s.tm.tdoomed then some .pendingFailure
    else none
  else none

/-- An exception and a failure at one byte have equal priority: `preferFailure` says which is presented (R321 d). -/
def stopByException (e : DataException) (before : Nat) (failure : Option AccessStop) (preferFailure : Bool) : AccessStop :=
  if preferFailure then failure.getD (.exception e before) else .exception e before

/-- What stops the access of one byte. That an exception depends on the page of the byte and on the kind of access alone is a DESIGN CHOICE
(N13, N32, D3; log 41). -/
def State.byteStop (s : State) (p : Page) (isStore fails preferFailure : Bool) (before : Nat) : Option AccessStop :=
  let failure := s.disallowedStop p isStore fails
  match p.exceptionOf isStore with
  | some e => some (stopByException e before failure preferFailure)
  | none => failure

/-- What stops an access of the operand, if anything: one byte at a time in order of increasing effective address (R112, R324). -/
def State.accessStop (s : State) (isStore fails preferFailure : Bool) : List Nat → Nat → Option AccessStop
  | [], _ => none
  | a :: rest, before =>
    match (s.pageAt a).bind fun p => s.byteStop p isStore fails preferFailure before with
    | some stop => some stop
    | none => s.accessStop isStore fails preferFailure rest (before + 1)

/-- What stops an access that meets an exception at its byte `index` for a reason other than its page: what an earlier byte meets, or that
exception, of equal priority with the disallowed type of the same byte (R112, R321 d, R324). -/
def State.givenStop (s : State) (isStore fails preferFailure : Bool) (e : DataException) (index : Nat) (addrs : List Nat) : AccessStop :=
  match s.accessStop isStore fails preferFailure (addrs.take index) 0 with
  | some stop => stop
  | none =>
    stopByException e index ((addrs[index]?.bind s.pageAt).bind fun p => s.disallowedStop p isStore fails) preferFailure

/-- The interrupt of a data storage exception (R282). -/
def DataException.interrupt : DataException → InterruptKind
  | .dataStorage => .dataStorage
  | .protection => .dataStorage
  | .hypervisorDataStorage => .hypervisorDataStorage
  | .hypervisorProtection => .hypervisorDataStorage
  | .dataSegment => .dataSegment
  | .hypervisorDataSegment => .hypervisorDataSegment
  | .alignment => .alignment

/-- A storage protection violation: it never sets the Change bit (R105). -/
def DataException.isProtection : DataException → Bool
  | .protection => true
  | .hypervisorProtection => true
  | .dataStorage => false
  | .hypervisorDataStorage => false
  | .dataSegment => false
  | .hypervisorDataSegment => false
  | .alignment => false

/-- A data storage interrupt. What it leaves in DAR, DSISR, HDAR and HDSISR is not in the source: free (log 37). -/
def State.dataInterrupt (s : State) (e : DataException) : State :=
  let t := s.freeStatusInterrupt e.interrupt s.nia
  let address := Config.freeWord t.draws
  let status := (Config.freeWord (t.draws + 1)).setWidth 32
  { t.tick.tick with
    sprs := if t.usesHsrr e.interrupt then { t.sprs with hdar := address, hdsisr := status }
      else { t.sprs with dar := address, dsisr := status } }

/-! ### Loads -/

/-- A load sees the transaction's own store of its byte `i`: always before failure, freely after it, never once the updates are discarded
(R81 d, R83, U15). -/
def State.seesOwnStore (s : State) (i : Nat) : Bool :=
  s.active && !s.tm.updatesDiscarded && (!s.tm.tdoomed || Config.freeBit (s.draws + i))

/-- The byte a load of the thread returns (R81 d, R83). -/
def State.loadByte (s : State) (own : Bool) (a : Nat) : Byte :=
  if own then (cellAt s.tm.txData a).getD (s.mem.read a) else s.mem.read a

/-- The bytes a load returns, in order of increasing address (R81 d, R83). In a doomed transaction each byte is the transactional or the
non-transactional one by a draw of its own: that one load may mix the two is a DESIGN CHOICE, since the rule speaks of one location (U15;
log 59). -/
def State.loadBytes (s : State) (addrs : List Nat) : List Byte := addrs.zipIdx.map fun x => s.loadByte (s.seesOwnStore x.2) x.1

/-- A value of `n` bytes extended to a register (R81). -/
def Extension.apply (v : BitVec 128) (n : Nat) : Extension → BitVec 128
  | .zero => v
  | .sign => (v <<< (128 - 8 * n)).sshiftRight (128 - 8 * n)
  | .convert op => Config.baseConversion op v

/-- The value a register of a Load takes from the bytes of the operand (R81). -/
def LoadPart.value (s : State) (bytes : List Byte) (p : LoadPart) : BitVec 128 :=
  p.extension.apply (joinBytes (storageOrder (s.dataOrder p.reversed) ((bytes.drop p.offset).take p.bytes))) p.bytes

/-- The registers of a Load with the bytes of the operand placed in them, in order (R81). -/
def State.place (s : State) (bytes : List Byte) (parts : List LoadPart) : State :=
  parts.foldl (fun t p => t.setData (p.value s bytes) p.target) s

/-! ### Stores -/

/-- Bytes stored in Transactional state: they join the write set and are held as speculative storage updates (R82); once the updates are
discarded the data are dropped (R82 f). -/
def State.storeTransactional (s : State) (cells : List Host.Cell) : State :=
  { s with tm := { s.tm with
      writeSet := s.tm.writeSet ++ cells.map fun c => ⟨c.1, s.nia⟩
      txData := if s.tm.updatesDiscarded then s.tm.txData
        else cells.foldl (fun l c => cellPut l c.1 c.2) s.tm.txData } }

/-- A store in Suspended state against the suspended transaction (R84, R166): failure is certain where it hits a location the transaction loaded,
undefined where it shares a block with the footprint or with an access that was never executed (R169). U14 asks for failure where the block was
loaded, R166 and C15 where the location was: that a store to another byte of a loaded block need not fail the transaction is a DESIGN CHOICE
(log 28). -/
def State.selfConflict (s : State) (addrs : List Nat) : State :=
  let cause : ImpreciseCause := ⟨.selfInducedConflict, some s.nia⟩
  if s.tm.readSet.any fun f => addrs.contains f.addr then s.willFail cause (.bytes true addrs)
  else if touches (s.tm.footprint ++ s.tm.speculated) addrs then s.mayFail cause (.bytes true addrs)
  else s

/-- A store in Suspended state is newer than the transaction's own stores of the same bytes: these are no speculative storage updates any more,
so that the thread's later loads and a commit find the newer bytes: DEDUCED from R86 (log 42). -/
def State.supersede (s : State) (addrs : List Nat) : State :=
  { s with tm := { s.tm with txData := s.tm.txData.filter fun c => !addrs.contains c.1 } }

/-- Bytes stored in Non-transactional or Suspended state take effect at once (R80, R84). -/
def State.storeNow (s : State) (cells : List Host.Cell) : State :=
  let addrs := cells.map (·.1)
  let t := if s.ts = tsS then (s.selfConflict addrs).supersede addrs else s
  { t with mem := t.mem.writeCells cells }

/-- A store of bytes in the state the thread is in. -/
def State.storeCells (s : State) (cells : List Host.Cell) : State :=
  if s.ts = tsT then s.storeTransactional cells else s.storeNow cells

/-! ### Accesses -/

/-- The storage log with an access. -/
def State.logAccess (s : State) (isStore : Bool) (addrs : List Nat) : State :=
  s.log (.access isStore (s.ts == tsT) (addrs.headD 0) addrs.length)

/-- Of a list of bytes, those for which a draw says so. -/
def State.someOf {α : Type} (s : State) (l : List α) : List α :=
  (l.zipIdx.filter fun x => Config.freeBit (s.draws + x.2)).map (·.1)

/-- The access of one byte can be performed: the byte meets nothing itself, or a disallowed type that causes no failure (R79, U11). -/
def State.byteRuns (s : State) (isStore : Bool) (a : Nat) : Bool := (s.accessStop isStore false false [a] 0).isNone

/-- The other bytes of an access one byte of which meets an exception: of those that can be performed, before it and after it, any are
performed all the same, since the order of the exceptions does not extend to the performing of the component accesses (R112). That every access,
a Store Conditional among them, counts as non-atomic here, its bytes its components, is a DESIGN CHOICE: which accesses are single-copy atomic is
not in the source (R73; log 41). -/
def State.accessOthers (s : State) (isStore : Bool) (addrs : List Nat) (cells : List Host.Cell) : State :=
  let t := s.ticks addrs.length
  if isStore then
    let kept := s.someOf (cells.filter fun c => s.byteRuns true c.1)
    (t.recordAccess true (kept.map (·.1))).storeCells kept
  else
    let kept := s.someOf (addrs.filter (s.byteRuns false))
    (t.recordAccess false kept).noteLoad kept

/-- An access that is stopped. Where it meets an exception, any of its other bytes are performed (R112). Where it fails the transaction it is
handled at once, and nothing it did to storage or to the footprint stays. It may set the Reference and Change bits of its pages, freely: R105
makes both acceptable (log 41). -/
def State.stopAccess (s : State) (isStore : Bool) (addrs : List Nat) (cells : List Host.Cell) : AccessStop → Result
  | .exception e before =>
    .next (((s.mayTouchPages addrs (isStore && !e.isProtection)).accessOthers isStore (addrs.eraseIdx before)
      (cells.eraseIdx before)).dataInterrupt e)
  | .disallowed => (s.mayTouchPages addrs isStore).failDisallowed
  | .pendingFailure => (s.mayTouchPages addrs isStore).handlePending

/-- A data access: what stops it, or else `perform`. `cells` are the bytes of a store (R112, R320 item 7). Two draws: whether a disallowed type
fails, and which of two equal events is presented. -/
def State.dataAccess (s : State) (isStore : Bool) (addrs : List Nat) (cells : List Host.Cell) (perform : State → Result) :
    Result :=
  let t := s.tick.tick
  match s.accessStop isStore (Config.freeBit s.draws) (Config.freeBit (s.draws + 1)) addrs 0 with
  | none => perform ((t.recordAccess isStore addrs).logAccess isStore addrs)
  | some stop => t.stopAccess isStore addrs cells stop

/-- A Load (R80, R81, R83). -/
def State.loadTo (s : State) (ea : Word) (size : Nat) (parts : List LoadPart) (updates : List RegWrite) : Result :=
  let addrs := s.operandAddresses ea size
  s.dataAccess false addrs [] fun t =>
    let u := t.detectOverwritten addrs
    .next (((((u.noteLoad addrs).ticks addrs.length).place (u.loadBytes addrs) parts).writeRegs updates).complete)

/-- A Load of one General Purpose Register, zero-extended (log 39). -/
def State.loadGpr (s : State) (rt : RegNum) (ea : Word) (size : AccessSize) : Result :=
  s.loadTo ea size.bytes [⟨.gpr rt, 0, size.bytes, false, .zero⟩] []

/-- The bytes of one register of a Store (R82). -/
def StorePart.data (s : State) (p : StorePart) : List Byte :=
  let v := s.readData p.source
  storageOrder (s.dataOrder p.reversed)
    (splitBytes (match p.convert with | none => v | some op => Config.baseConversion op v) p.bytes)

/-- How many bytes a Store has. -/
def storeSize (parts : List StorePart) : Nat := (parts.map (·.bytes)).sum

/-- The bytes a Store of registers writes (R82). -/
def State.storedCells (s : State) (ea : Word) (parts : List StorePart) : List Host.Cell :=
  (s.operandAddresses ea (storeSize parts)).zip (parts.flatMap (·.data s))

/-- The bytes a Store of the low-order bytes of one General Purpose Register writes. -/
def State.gprCells (s : State) (rs : RegNum) (ea : Word) (size : AccessSize) : List Host.Cell :=
  s.storedCells ea [⟨.gpr rs, size.bytes, false, none⟩]

/-- A Store of given bytes (R80, R82, R84). -/
def State.storeAt (s : State) (cells : List Host.Cell) (after : State → State) : Result :=
  s.dataAccess true (cells.map (·.1)) cells fun t => .next (after (t.storeCells cells)).complete

/-- The address of the first byte of an address's storage block (R75). -/
def blockStart (a : Nat) : Nat := a - a % Config.blockSize

/-- The bytes dcbz writes: the zeros of the whole block (R76 d, R110). -/
def State.dcbzCells (s : State) (ea : Word) : List Host.Cell :=
  (addressesFrom (BitVec.ofNat 64 (blockStart (s.effective ea).toNat)) Config.blockSize).map fun x => (x, 0)

end Sys2Proof.Machine
end

