-- ==== Sys2Proof/Machine/Base.lean ====
section
/-!
DEFINITION. What the transaction state changes in a base instruction: 20_memory.md rules R80 to R86, R100 to R104, R110, R111, and
40_tm_states_failure.md rules R162 to R167. What the instruction is, and its operands, are given by the input tape (R4, R129; log 39).
-/

namespace Sys2Proof.Machine

/-- In Transactional state the instruction fails the transaction if the draw says so: for these it is undefined whether the transaction
fails (R164 a, b). `addrs` is the operand it would have loaded: its access, not performed, may set the Reference bit (R105). -/
def State.mayBeDisallowed (s : State) (addrs : List Nat) (body : State → Result) : Result :=
  if s.ts = tsT && Config.freeBit s.draws then (s.tick.mayTouchPages addrs false).failDisallowed else body s.tick

/-- A store to a device: it cannot be held back, so in Transactional state it fails the transaction (R87, R164, D15). Its access, not performed
then, may set the Reference and Change bits (R105). -/
def State.neverInT (s : State) (addrs : List Nat) (body : Result) : Result :=
  if s.ts = tsT then (s.mayTouchPages addrs true).failDisallowed else body

/-- A disallowed instruction outside Transactional state runs; in it, it fails the transaction (R162). -/
def State.disallowedInT (s : State) (body : State) : Result := if s.ts = tsT then s.failDisallowed else .next body

/-- A Branch (R86). That `link` writes CIA + 4 to the LR and `decrement` the CTR less 1, each on all 64 bits in 32-bit mode too, is PRESUMED:
the base text of a Branch is not in the source (R4; log 60). -/
def State.branch (s : State) (taken link decrement : Bool) (target : Word) : State :=
  { s with
    regs := { s.regs with
      lr := if link then s.nia + 4 else s.regs.lr
      ctr := if decrement then s.regs.ctr - 1 else s.regs.ctr }
    nia := if taken then wordAlign target else s.nia + 4, completed := true }

/-- Load and Reserve (R100): the reservation notes the state it was established in. -/
def State.reserve (s : State) (ea : Word) (size : AccessSize) : State :=
  { s with reservation := some ⟨(s.effective ea).toNat, size.bytes, s.ts⟩ }

/-- XER.SO: bit 32, PRESUMED (log 40). -/
def xerSo (x : Word) : Bool := bit x 32

/-- `CR0 <- 0b00 || stored || XER.SO` after a Store Conditional, PRESUMED (log 40). -/
def State.setCr0Stored (s : State) (stored : Bool) : State :=
  s.setCr0 (0#2 ++ BitVec.ofBool stored ++ BitVec.ofBool (xerSo s.xer))

/-- The reservation lets a Store Conditional store: same address and size, PRESUMED (log 40), and not with only one of the pair executed in
Suspended state (R100 item 4 c, R101). -/
def State.reservationAllows (s : State) (ea : Word) (size : AccessSize) : Bool :=
  match s.reservation with
  | none => false
  | some r => r.addr == (s.effective ea).toNat && r.size == size.bytes && (s.ts == tsS) == (r.state == tsS)

/-- Store Conditional (R100 to R102): the reservation is lost in every case. One that does not store may set the Reference and Change bits of
its page (R105); that it meets no storage exception of the page, and in Transactional state no disallowed type of it, is a DESIGN CHOICE, since
the source is silent (N13, N32; log 40). One that meets an exception may have stored some of its bytes and keeps the reservation: DESIGN CHOICE
(R73; log 41). -/
def State.storeConditional (s : State) (rs : RegNum) (ea : Word) (size : AccessSize) : Result :=
  if s.reservationAllows ea size then
    s.storeAt (s.gprCells rs ea size) fun t => { t.setCr0Stored true with reservation := none }
  else
    .next { (s.mayTouchPages (s.operandAddresses ea size.bytes) true).setCr0Stored false with reservation := none }.complete

/-- waitrsv (R100 item 4 c): in Suspended state a reservation established in Transactional state is lost, and it does not wait. Elsewhere the
wait ends at once (log 40). -/
def State.waitReservation (s : State) : State :=
  { s with reservation :=
      if s.ts = tsS then s.reservation.filter fun r => !r.inTransaction else s.reservation }.complete

/-- The accesses a cache management instruction conflicts with: stores for dcbst, every access for dcbf, dcbi, icbi (R78, R164 f, g), those
that were performed out of order among them (R169). -/
def Facility.exposedTo (f : Facility) : CacheOp → List Foot
  | .dcbst => f.writeSet ++ f.specWrites
  | _ => f.footprint ++ f.speculated

/-- The cache management instruction is disallowed in Transactional state (R110, R162). -/
def CacheOp.disallowed : CacheOp → Bool
  | .dcbf => true
  | .dcbi => true
  | .icbi => true
  | .dcbst => true
  | .dcbt => false
  | .dcbtst => false

/-- A cache management instruction (R78, R110): in Suspended state, on an exposed block, it may fail the transaction. It has no effect on
the storage of this model. dcbi, which Figure 2 does not name, takes the Reference and Change row of dcbf, and the instruction itself meets no
storage exception (DESIGN CHOICE, log 41). -/
def State.cacheManage (s : State) (op : CacheOp) (ea : Word) : Result :=
  let addrs := [(s.effective ea).toNat]
  if s.ts = tsT && op.disallowed then s.failDisallowed
  else
    let t := s.mayTouchPages addrs false
    if op.disallowed && touches (s.tm.exposedTo op) addrs then
      .next (t.mayFail ⟨.selfInducedConflict, some s.nia⟩ (.bytes false addrs)).complete
    else .next t.complete

/-- A tlbie against the active transaction (R77, R103): failure is certain for a page it used, possible for another. -/
def State.translationInvalidated (s : State) (base size : Nat) : State :=
  if s.tm.usesPage base size then s.willFail ⟨.translationInvalidation, none⟩ (.page base size)
  else s.mayFail ⟨.translationInvalidation, none⟩ (.page base size)

/-- eciwx where it does not fail a transaction (R164 a): a word of the device, free, into RT (log 39). In Transactional state the access is
transactional (R60, R74). -/
def State.readDevice (s : State) (rt : RegNum) (ea : Word) : Result :=
  s.dataAccess false (s.operandAddresses ea 4) [] fun t =>
    let data := (Config.freeWord t.draws).setWidth 32
    .next ((((t.noteLoad (t.operandAddresses ea 4)).tick.log (.device false (t.effective ea).toNat data)).setGpr rt (data.setWidth 64)).complete)

/-- ecowx outside Transactional state (R164 a): the low word of RS to the device (log 39). -/
def State.writeDevice (s : State) (rs : RegNum) (ea : Word) : Result :=
  s.dataAccess true (s.operandAddresses ea 4) [] fun t =>
    .next (t.log (.device true (t.effective ea).toNat ((t.gpr rs).setWidth 32))).complete

/-- mtmsr: disallowed in Transactional state (R162); it cannot write MSR bits 29:31 and raises no TM Bad Thing (R254, R323 list G). What else
it writes is given (log 39). -/
def State.moveToMsr (s : State) (value : Word) : Result :=
  s.guardLevel .privileged
    (if s.ts = tsT then s.failDisallowed
     else
      let newMsr := putTsTm value (msrTsTm s.msr)
      let t := { s.complete with msr := newMsr }
      .next (if s.fpEnabledBy newMsr then t.fpAtNext true else t))

/-- The access stores (R76 d). -/
def AccessShape.isStore : AccessShape → Bool
  | .load _ _ => false
  | .store _ _ => true
  | .dcbz _ => true

/-- The bytes the access stores. -/
def AccessShape.cells (s : State) : AccessShape → List Host.Cell
  | .load _ _ => []
  | .store ea parts => s.storedCells ea parts
  | .dcbz ea => s.dcbzCells ea

/-- The byte addresses of the access, in order. -/
def AccessShape.addresses (s : State) : AccessShape → List Nat
  | .load ea size => s.operandAddresses ea size
  | .store ea parts => (s.storedCells ea parts).map (·.1)
  | .dcbz ea => (s.dcbzCells ea).map (·.1)

/-- An access that meets an exception at one of its bytes for a reason other than the page (log 41). What an earlier byte meets comes first,
and the other bytes may be performed, as for an exception of a page (R112, R324). -/
def State.storageException (s : State) (e : DataException) (index : Nat) (access : AccessShape) : Result :=
  let addrs := access.addresses s
  s.tick.tick.stopAccess access.isStore addrs (access.cells s)
    (s.givenStop access.isStore (Config.freeBit s.draws) (Config.freeBit (s.draws + 1)) e index addrs)

/-- wait, waitasec (R164 b, c): in Suspended state a no-op that may record a failure. That the wait itself ends at once, with no other effect,
where no failure comes of it is a DESIGN CHOICE: the base text of the two is not in the source (N1; log 40). -/
def State.waitInstruction (s : State) : Result :=
  if s.ts = tsS && Config.freeBit s.draws then .next (s.tick.recordFailure disallowedCode (some s.nia)).complete
  else s.mayBeDisallowed [] fun t => .next t.complete

/-- A floating-point instruction (R200, R285): its writes, the exception record in the FPSCR among them, are made in every case. If the FPSCR
then shows an enabled exception, the interrupt comes at once where `MSR[FE0 FE1]` is 0b11, at once or later where it is 0b01 or 0b10 (log 51),
and not where it is 0b00. -/
def State.floatingPoint (s : State) (writes : List RegWrite) (fex : Bool) : State :=
  let t := s.writeRegs writes
  let u := { t with regs := { t.regs with fex := fex } }
  if fex && msrFe s.msr != 0b00 && (msrFe s.msr == 0b11 || Config.freeBit s.draws) then u.tick.fpPrecise
  else u.tick.complete

/-- An interrupt that is the effect of a base instruction (R290, R291, R302). The saved address is that of the instruction, but for System
Call, whose saved address is the next one's: the source gives none of them but that of Trap, DESIGN CHOICE (log 54); unsafe. -/
def State.baseInterrupt (s : State) : BaseInterrupt → State
  | .systemCall lev1 => s.freeStatusInterrupt (.systemCall lev1) (s.nia + 4)
  | .trap => s.programInterrupt 46
  | .fpUnavailable => s.freeStatusInterrupt .fpUnavailable s.nia
  | .vectorUnavailable => s.freeStatusInterrupt .vectorUnavailable s.nia
  | .vsxUnavailable => s.freeStatusInterrupt .vsxUnavailable s.nia
  | .hypervisorFacilityUnavailable => s.hypervisorFacilityUnavailable
  | .facilityUnavailable => s.facilityUnavailable
  | .hypervisorEmulationAssistance => s.emulationAssistance

/-- What a base instruction does once its level suffices. -/
def execBaseInstr (b : BaseInstr) (s : State) : Result :=
  match b with
  | .compute writes => .next (s.writeRegs writes).complete
  | .floatingPoint writes fex => .next (s.floatingPoint writes fex)
  | .branch taken link decrement target => .next (s.branch taken link decrement target)
  | .load ea size parts updates => s.loadTo ea size parts updates
  | .store ea parts updates => s.storeAt (s.storedCells ea parts) fun t => t.writeRegs updates
  | .dcbz ea => s.storeAt (s.dcbzCells ea) id
  | .loadReserve rt ea size =>
    match s.loadGpr rt ea size with
    | .next t => .next (if t.completed then t.reserve ea size else t)
    | r => r
  | .storeConditional rs ea size => s.storeConditional rs ea size
  | .waitrsv => .next s.waitReservation
  | .cachingInhibitedLoad rt ea size => s.mayBeDisallowed (s.operandAddresses ea size.bytes) fun t => t.loadGpr rt ea size
  | .cachingInhibitedStore rs ea size =>
    s.neverInT (s.operandAddresses ea size.bytes) (s.storeAt (s.gprCells rs ea size) id)
  | .eciwx rt ea => s.mayBeDisallowed (s.operandAddresses ea 4) fun t => t.readDevice rt ea
  | .ecowx rs ea => s.neverInT (s.operandAddresses ea 4) (s.writeDevice rs ea)
  | .cacheOp op ea => s.cacheManage op ea
  | .tlbie base size => s.disallowedInT (s.translationInvalidated base size).complete
  | .tlbia => .next s.complete
  | .disallowed _ writes => s.disallowedInT (s.writeRegs writes).complete
  | .mtmsr value => s.moveToMsr value
  | .wait => s.waitInstruction
  | .barrier b => .next (s.log (.barrierInstr b)).complete
  | .interrupt i => .next (s.baseInterrupt i)
  | .storageException e index access => s.storageException e index access

/-- A base instruction: the privilege check first (R167, R320). -/
def execBase (b : BaseStep) (s : State) : Result := s.guardLevel b.level (execBaseInstr b.instr s)

/-- A Branch, for the branch trace (R300). -/
def BaseInstr.isBranch : BaseInstr → Bool
  | .branch _ _ _ _ => true
  | _ => false

end Sys2Proof.Machine
end

