-- ==== Sys2Proof/Machine/Environment.lean ====
section
/-!
DEFINITION. The agents other than the thread's own instructions, and the fetch: other processors (20_memory.md rules R76 to R78, R103, R109),
the failure agent (40_tm_states_failure.md rule R184 steps 3 to 6), interrupts (60_exceptions.md rule R331), the Trace interrupt (R300).
-/

namespace Sys2Proof.Machine

/-! ### Inputs -/

/-- The failure agent does nothing. -/
def AgentDraw.quiet : AgentDraw := ⟨none, false, false, false, none, none⟩

/-- Nothing happens at the boundary. -/
def Boundary.quiet : Boundary := ⟨[], AgentDraw.quiet, none⟩

/-- What happens at this boundary: the head of the input tape. Where the tape is empty the failure agent of an active transaction is free and
nothing else happens (log 21, 22). -/
def State.boundary (s : State) : Boundary :=
  match s.tape with
  | b :: _ => b
  | [] => if s.active then { Boundary.quiet with agent := Config.agentDraw s.draws } else Boundary.quiet

/-- The tape without its head; a draw is spent where it was empty. -/
def State.popTape (s : State) : State :=
  match s.tape with
  | _ :: rest => { s with tape := rest }
  | [] => s.tick

/-! ### Other processors -/

/-- The cause a conflicting access of another processor is recorded as, and whether this thread's transaction is one that fails (R76,
R173). Which of the accesses it conflicts with shows its instruction's address, if any does, is free. -/
def State.conflictCause (s : State) (who : OtherAgent) (hits : List Foot) : Option ImpreciseCause :=
  match who with
  | .nonTransactional => some ⟨.nonTransactionalConflict, none⟩
  | .transaction .theirs => none
  | .transaction .ours => some ⟨.transactionConflict, s.instructionOf hits⟩
  | .transaction .both => some ⟨.transactionConflict, s.instructionOf hits⟩

/-- A conflicting access of another processor: certain against the footprint, possible against accesses that were never executed (R161, R169),
unless the other transaction alone fails (R76). -/
def State.externalConflict (s : State) (who : OtherAgent) (stored : Bool) (addrs : List Nat) (foot spec : List Foot) : State :=
  let hits := footHits foot addrs
  match s.conflictCause who (if hits.isEmpty then footHits spec addrs else hits) with
  | none => s
  | some c =>
    if touches foot addrs then s.tick.willFail c (.bytes stored addrs)
    else if touches spec addrs then s.tick.mayFail c (.bytes stored addrs)
    else s

/-- A store of another processor is performed: but not the store of a transaction that fails. -/
def storePerformed (who : OtherAgent) (hit : Bool) : Bool :=
  match who with
  | .nonTransactional => true
  | .transaction .ours => true
  | .transaction .theirs => !hit
  | .transaction .both => !hit

/-- The cause of a failure by another processor's cache instruction or by an eviction: bit 12 or bit 15, free (R173). -/
def drawnEviction (implSpecific : Bool) : ImpreciseCause :=
  ⟨if implSpecific then .implementationSpecific else .nonTransactionalConflict, none⟩

/-- Another processor's fetch from a block the transaction wrote may fail it (R164 e); the instruction shown as exact, if one is, is one that
wrote there (R173). -/
def State.externalFetch (s : State) (addrs : List Nat) : State :=
  let hits := footHits (s.tm.writeSet ++ s.tm.specWrites) addrs
  if hits.isEmpty then s
  else s.tick.mayFail ⟨.instructionFetchConflict, s.instructionOf hits⟩ (.bytes false addrs)

/-- What another processor or mechanism does (R12 b): its load conflicts with the write set, its store with the whole footprint (R76 b, c). -/
def State.applyExternal (s : State) : ExternalEvent → State
  | .load who addr size => s.externalConflict who false (addressesFrom addr size) s.tm.writeSet s.tm.specWrites
  | .store who addr bytes =>
    let addrs := addressesFrom addr bytes.length
    let performed := storePerformed who (touches s.tm.footprint addrs)
    let t := s.externalConflict who performed addrs s.tm.footprint s.tm.speculated
    if performed then { t with mem := t.mem.writeCells (addrs.zip bytes) } else t
  | .tlbie base size => s.translationInvalidated base size
  | .cacheFlush addr =>
    if touches (s.tm.exposedTo .dcbf) [addr.toNat] then
      s.tick.mayFail (drawnEviction (Config.freeBit s.draws)) (.bytes false [addr.toNat])
    else s
  | .cacheClean addr =>
    if touches (s.tm.exposedTo .dcbst) [addr.toNat] then
      s.tick.mayFail (drawnEviction (Config.freeBit s.draws)) (.bytes false [addr.toNat])
    else s
  | .fetch addr => s.externalFetch [addr.toNat]
  | .loseReservation => { s with reservation := none }
  | .raise i => { s with pendingInterrupts := s.pendingInterrupts ++ [i] }
  | .perfmon i v => { s with sprs := { s.sprs with perfmon := s.sprs.perfmon.set i v } }

/-- What other processors and mechanisms do at a boundary, in order. -/
def State.applyExternals (s : State) (events : List ExternalEvent) : State := events.foldl State.applyExternal s

/-! ### The failure agent -/

/-- A cause that may arise from one of the thread's own operations on a byte, if its block is one of some accesses (R164, R169). -/
def State.mayFailOn (s : State) (foot : List Foot) (c : ImpreciseCause) (addr : Nat) : State :=
  if touches foot [addr] then s.mayFail c (.bytes false [addr]) else s

/-- What the thread does out of order and never executes (R169): a load or a store may be conflicted with, and what could fail the transaction
in order may fail it. A ROT's loads are not monitored (R76 c). The Reference bit may be set, and the Change bit for a store that the sequential
execution model would require (R105). -/
def State.speculate (s : State) : Option Speculation → State
  | none => s
  | some (.load addr ia) =>
    let t := s.mayTouchPages [addr] false
    if s.active && !s.rot then { t with tm := { s.tm with specReads := s.tm.specReads ++ [⟨addr, ia⟩] } } else t
  | some (.store addr ia required) =>
    let t := s.mayTouchPages [addr] required
    if s.active then { t with tm := { s.tm with specWrites := s.tm.specWrites ++ [⟨addr, ia⟩] } } else t
  | some (.suspendedStore addr ia required) =>
    (s.mayTouchPages [addr] required).mayFailOn (s.tm.footprint ++ s.tm.speculated) ⟨.selfInducedConflict, some ia⟩ addr
  | some (.cacheOp op addr ia) =>
    let t := s.mayTouchPages [addr] false
    if op.disallowed then t.mayFailOn (s.tm.exposedTo op) ⟨.selfInducedConflict, some ia⟩ addr else t
  | some (.tlbie base size) => s.mayFail ⟨.translationInvalidation, none⟩ (.page base size)
  | some (.fetch addr ia) =>
    (s.mayTouchPages [addr] false).mayFailOn (s.tm.writeSet ++ s.tm.specWrites) ⟨.instructionFetchConflict, some ia⟩ addr

/-- The Reference and Change bits of a transactional access may be set at any time before the commit (R105): C, and then R, of a page the
transaction stored to, R of one it loaded from, in a ROT too. -/
def State.agentTouch (s : State) : Option (Nat × Bool) → State
  | none => s
  | some (i, setC) =>
    match s.tm.accessed[i]? with
    | none => s
    | some f => s.touchPages [f.addr] true (setC && s.tm.writeSet.contains f)

/-- Step 3 of R184: an imprecise failure is detected. The address an Implementation-specific failure may show as exact is that of an
instruction the transaction has executed, any of them (R173, U5). -/
def State.agentDetect (s : State) : Option Detection → State
  | none => s
  | some .implementationSpecific =>
    s.tick.detect ⟨.implementationSpecific, s.tm.executed[Config.freeIndex s.draws % s.tm.executed.length]?⟩
  | some .footprintOverflow => s.detect ⟨.footprintOverflow, none⟩
  | some (.eviction implSpecific) => s.detect (drawnEviction implSpecific)
  | some (.latent i) =>
    match s.tm.latent[i]? with
    | none => s
    | some l => { s with tm := { s.tm with latent := s.tm.latent.eraseIdx i } }.detect l.cause

/-- Step 4 of R184: a detected failure is recorded. -/
def State.agentRecord (s : State) (record : Bool) : State :=
  if record && s.active && s.tm.tdoomed && !s.tm.pending.isEmpty then s.recordPending else s

/-- Step 5 of R184: the speculative storage updates of a doomed transaction are dropped. -/
def State.agentDiscard (s : State) (discard : Bool) : State :=
  if discard && s.active && s.tm.tdoomed then s.discardUpdates else s

/-- Steps 3 to 5 of R184. -/
def State.agent (s : State) (d : AgentDraw) : State :=
  (((((s.speculate d.speculate).agentTouch d.touch).agentDetect d.detect).agentRecord d.record).agentDiscard d.discard)

/-- Step 6 of R184 happens: only in Transactional state, for a doomed transaction (R177). -/
def State.agentHandles (s : State) (handle : Bool) : Bool := handle && s.ts == tsT && s.tm.tdoomed

/-! ### Interrupts -/

/-- The interrupt of an asynchronous cause. -/
def AsyncInterrupt.kind : AsyncInterrupt → InterruptKind
  | .systemReset => .systemReset
  | .machineCheck => .machineCheck
  | .external => .external
  | .decrementer => .decrementer
  | .hypervisorDecrementer => .hypervisorDecrementer
  | .hypervisorMaintenance => .hypervisorMaintenance
  | .performanceMonitor => .performanceMonitor

/-- The interrupt may be taken: External and Decrementer are gated by MSR.EE, PRESUMED (R331; log 38). -/
def State.enabled (s : State) : AsyncInterrupt → Bool
  | .external => msrEe s.msr
  | .decrementer => msrEe s.msr
  | _ => true

/-- The first pending interrupt that is enabled. -/
def State.nextInterrupt (s : State) : Option AsyncInterrupt := s.pendingInterrupts.find? s.enabled

/-- An asynchronous interrupt between two instructions (R291, R331). The saved address is NIA, which is that of the next instruction, after doze
that of the instruction after it, and a free word where a power-saving level lost the registers: DESIGN CHOICE, since the source gives no return
address of these interrupts and does not say where execution resumes (R291, N21; log 30). That Machine Check, Hypervisor Maintenance and
Performance Monitor write no register but the two save registers is a DESIGN CHOICE too (N32; log 37). -/
def State.takeAsync (s : State) (i : AsyncInterrupt) : State :=
  { s with pendingInterrupts := s.pendingInterrupts.erase i }.freeStatusInterrupt i.kind s.nia

/-- A thread in a power-saving level: it executes nothing until an interrupt that is enabled is pending, then takes it with the state its
level left; the level ends after the entry, so that the System Reset row of Figure 3 sees it (R270, R331, R290 legend p; log 30). -/
def State.powerSavingStep (s : State) : State :=
  match s.nextInterrupt with
  | none => { s with completed := false }
  | some i => { (s.afterPowerSaving i).takeAsync i with power := .running }

/-! ### Fetch -/

/-- What the fetch of the next instruction meets (R320 item 1, R79). -/
inductive FetchOutcome where
  | fetched
  | interrupt (e : FetchException)
  | fails
  | pendingFailure
  deriving DecidableEq, Repr

/-- The interrupt of a fetch exception. -/
def FetchException.kind : FetchException → InterruptKind
  | .instructionStorage => .instructionStorage
  | .hypervisorInstructionStorage => .hypervisorInstructionStorage
  | .instructionSegment => .instructionSegment

/-- The byte addresses of the next instruction. -/
def State.fetchAddresses (s : State) : List Nat := s.operandAddresses s.nia 4

/-- What the page does to the fetch by its disallowed type, in Transactional state: for a Caching Inhibited fetch it is undefined whether the
transaction fails (R79, R164 d), and where it does not, a pending failure is handled (R178). -/
def State.disallowedFetch (s : State) (p : Page) : FetchOutcome :=
  if s.ts == tsT && p.cachingInhibited then
    if Config.freeBit s.draws then .fails
    else if s.tm.tdoomed then .pendingFailure
    else .fetched
  else .fetched

/-- What the fetch meets: a fetch exception of its page, or its disallowed type. Which of the two where both are there is free (R320 item 1;
log 56). -/
def State.fetchOutcome (s : State) : FetchOutcome :=
  match s.pageAt (s.effective s.nia).toNat with
  | none => .fetched
  | some p =>
    match p.fetchException, s.disallowedFetch p with
    | none, outcome => outcome
    | some e, .fetched => .interrupt e
    | some e, outcome => if Config.freeBit (s.draws + 1) then outcome else .interrupt e

/-- The instruction is one the transaction, if there is one, has executed (R173). -/
def State.noteExecuted (s : State) : State :=
  if s.active then { s with tm := { s.tm with executed := s.tm.executed ++ [s.nia] } } else s

/-- The fetch itself: it sets the Reference bit (R105), shows a byte a conflicting store has overwritten only after the conflict is
detected (10_state.md rule R54), and may fail a transaction that wrote the block (R85, R109). -/
def State.afterFetch (s : State) : State :=
  let t := (s.noteExecuted.tick.tick.touchPages s.fetchAddresses true false).settle (·.overwrote s.fetchAddresses)
  if touches (s.tm.writeSet ++ s.tm.specWrites) s.fetchAddresses then
    t.mayFail ⟨.instructionFetchConflict, some s.nia⟩ (.bytes false s.fetchAddresses)
  else t

/-- The four bytes fetched: committed storage, never a speculative store (R85, R109). A store that is performed is seen by the very next fetch,
with no icbi, sync or isync between: DESIGN CHOICE, since the source does not restate the base rules of fetch coherence (R109; log 42). -/
def State.fetchBytes (s : State) : List Byte := s.fetchAddresses.map s.mem.read

/-- The instruction the thread decodes next. -/
def State.fetchDecode (s : State) : Except DecodeError Instr := decodeBytes s.byteOrder s.fetchBytes

/-! ### Trace -/

/-- The instruction that starts in this state is traced if it completes (R300). -/
def State.traces (s : State) (isBranch : Bool) : Bool := msrSe s.msr || (msrBe s.msr && isBranch)

/-- The interrupt after a traced instruction that completed: Trace, unless a Floating-Point Enabled Exception, which has the higher priority, is
due (R300, R302, R323). -/
def traceAfter (traced : Bool) : Result → Result
  | .next t => .next (if traced && t.completed then if t.fpDue then t.fpBetween else t.traceInterrupt else t)
  | r => r

/-- A transaction state no rule produces: TS = 0b11, or Transactional with TM = 0 (U17). -/
def State.unreachableTs (s : State) : Bool := s.ts == 0b11 || (s.ts == tsT && !msrTm s.msr)

end Sys2Proof.Machine
end

