-- ==== Sys2Proof/Machine/Step.lean ====
section
/-!
DEFINITION. One step of the machine: one instruction boundary and, where nothing else happens there, one instruction
(40_tm_states_failure.md rule R184).
-/

namespace Sys2Proof.Machine

/-- A fetch that is stopped may set the Reference bit of its page, freely: DESIGN CHOICE where R105 has no row for it (log 41). -/
def State.afterStoppedFetch (s : State) : State := s.tick.tick.mayTouchPages s.fetchAddresses false

/-- The state the instruction executes in. A failure that is detected by then is recorded first where the failure agent says so, one that the
fetch itself causes among them (R170, R174, U9; log 49). -/
def State.fetched (s : State) (b : Boundary) : State := s.afterFetch.agentRecord b.agent.record

/-- Run the instruction at NIA: fetch, decode, execute, trace (R184 steps 7 to 10). The boundary says what a word outside the opcode table
does. That the interrupt of a fetch writes no register but the two save registers is a DESIGN CHOICE (N32; log 37). -/
def State.runInstruction (s : State) (b : Boundary) : Result :=
  match s.fetchOutcome with
  | .interrupt e => .next (s.afterStoppedFetch.freeStatusInterrupt e.kind s.nia)
  | .fails => s.afterStoppedFetch.failNotExecuted ImpreciseKind.implementationSpecific.code
  | .pendingFailure => s.afterStoppedFetch.handlePending
  | .fetched =>
    match s.fetchDecode with
    | .ok i => traceAfter (s.traces false) (exec i (s.fetched b))
    | .error .notInOpcodeTable =>
      match b.base with
      | some base => traceAfter (s.traces base.instr.isBranch) (execBase base (s.fetched b))
      | none => .refused .notInOpcodeTable
    | .error .reservedField => .refused .reservedField
    | .error .undefinedEncoding => .refused .undefinedEncoding
    | .error .tooShort => .refused .reservedField

/-- What the thread does where no interrupt is pending: handling that is owed (R184 step 2), or that the failure agent starts (step 6), or
else the instruction. -/
def State.runOrHandle (s : State) (b : Boundary) : Result :=
  if (s.ts == tsT && s.tm.handleOnResume) || s.agentHandles b.agent.handle then s.handlePending
  else s.runInstruction b

/-- The instruction at NIA is one of the eleven TM instructions. -/
def State.atTmInstruction (s : State) : Bool :=
  match s.fetchDecode with
  | .ok i => i.isTm
  | .error _ => false

/-- What the thread does at a boundary at which no Floating-Point Enabled interrupt is taken, after the failure agent: an enabled pending
interrupt, unless the agent handles the failure first, which leaves the interrupt pending (U24; log 50); or else what `runOrHandle` says. -/
def State.proceed (s : State) (b : Boundary) : Result :=
  match s.nextInterrupt with
  | some i => if s.agentHandles b.agent.handle then s.handlePending else .next (s.takeAsync i)
  | none => s.runOrHandle b

/-- A Floating-Point Enabled interrupt that is due cannot wait for `r`, what would happen without it: in precise mode; before a TM instruction
or failure handling (R200); and before the thread changes `MSR[FE0 FE1]`, by an interrupt of any kind or otherwise, or stops executing, since the
exception could then be reported only after a TM instruction, or in another mode (R200, R285). That it comes before an asynchronous interrupt is
a DESIGN CHOICE (N25; log 51). -/
def State.fpMustBeTaken (s : State) (r : Result) : Bool :=
  msrFe s.msr == 0b11 || s.atTmInstruction ||
    match r with
    | .next t => msrFe t.msr != msrFe s.msr || (s.active && t.ts == tsN) || t.power != .running
    | .fault _ => false
    | .refused _ => false

/-- A boundary with a Floating-Point Enabled Exception due: the interrupt is taken, or, where it need not be, perhaps not yet (R200, R285). -/
def State.fpBoundary (s : State) (b : Boundary) : Result :=
  let r := s.tick.proceed b
  if s.fpMustBeTaken r || Config.freeBit s.draws then .next s.tick.fpBetween else r

/-- What the thread does at a boundary once the other agents' events have happened (R184 steps 1 to 10). The failure agent acts first, or not
at all: so a failure is detected and recorded before or after the interrupt of the same boundary (U24; log 50). A due Floating-Point Enabled
interrupt has its turn before an enabled asynchronous one: DESIGN CHOICE (N25; log 51). -/
def State.atBoundary (s : State) (b : Boundary) : Result :=
  if s.power != .running then .next s.powerSavingStep
  else
    let t := s.agent b.agent
    if t.fpDue then t.fpBoundary b else t.proceed b

/-- One step (R184). A start state no rule produces is refused (U17). -/
def step (s : State) : Host.Outcome State Fault Refusal :=
  if s.unreachableTs then .refused .unreachableTransactionState
  else (s.popTape.applyExternals s.boundary.external).atBoundary s.boundary

/-- The state with the instruction word `w` stored where `step` fetches, and nothing else happening at that boundary: no pending interrupt,
the thread executing, a quiet input (log 48). -/
def State.withFetchWord (s : State) (_nbits w : Nat) : State :=
  { s with
    mem := s.mem.writeCells
      (s.fetchAddresses.zip (wordToBytes s.byteOrder (BitVec.ofNat 32 w)))
    pendingInterrupts := []
    power := .running
    tape := Boundary.quiet :: s.tape }

end Sys2Proof.Machine
end

