-- ==== Sys2Proof/Safety.lean ====
section
/-!
DEFINITION. What a state that a run can reach looks like, and the words the statements are written in.
-/

namespace Sys2Proof.Machine

/-- The invariant of the machine: what every rule of 40_tm_states_failure.md keeps (R150, R158, R185). -/
structure State.Inv (s : State) : Prop where
  /-- Storage keeps its canonical form. -/
  memory : s.mem.wf
  /-- MSR.TS is never 0b11 (R185 item 1). -/
  tsLegal : s.ts ≠ 0b11
  /-- The Transactional state has TM = 1: T0 is illegal (U17). -/
  tmEnabled : s.ts = tsT → msrTm s.msr = true
  /-- In Non-transactional state no transaction is held (R185 item 2). -/
  idle : s.ts = tsN → s.tm = Facility.idle
  /-- An active transaction has a checkpoint (R52). -/
  checkpoint : s.ts ≠ tsN → s.tm.checkpoint.isSome = true
  /-- The next instruction's address is word aligned (R22). -/
  niaAligned : wordAlign s.nia = s.nia
  /-- The transactional data are listed by rising effective addresses. -/
  txData : cellsRise s.tm.txData ∧ ∀ c ∈ s.tm.txData, c.1 < 2 ^ 64
  /-- Handling is owed on resume only in Suspended state, by a transaction that is doomed, recorded and discarded (R180). -/
  owed : s.tm.handleOnResume = true →
    s.ts = tsS ∧ s.tm.tdoomed = true ∧ s.fs = true ∧ s.tm.updatesDiscarded = true
  /-- A recorded failure means a doomed transaction (R158). -/
  doomed : s.ts ≠ tsN → s.fs = true → s.tm.tdoomed = true
  /-- Once discarded, there are no speculative storage updates (R55). -/
  discarded : s.tm.updatesDiscarded = true → s.tm.txData = []
  /-- The level of a transaction that tbegin. began is between 1 and TLmax (R185 item 7); one that trechkpt. built has handling owed. -/
  level : s.ts ≠ tsN → s.tm.handleOnResume = false →
    1 ≤ (texasrTl s.sprs.texasr).toNat ∧ (texasrTl s.sprs.texasr).toNat ≤ Config.tlMax
  /-- A power-saving level is entered in Non-transactional state only (R270). -/
  asleep : s.power ≠ .running → s.ts = tsN

/-- The words of an instruction's frame: every bit of a register but the listed ones is unchanged. -/
def sameBitsBut (bits : List Nat) (old new : Word) : Prop := ∀ k, k ∉ bits → bit new k = bit old k

/-- A CR field has a value and the other seven fields are unchanged (R23). -/
def crFieldSet (i : BitVec 3) (v : CrField) (old new : Word32) : Prop :=
  crField new i = v ∧ ∀ j, j ≠ i → crField new j = crField old j

/-- TM instructions and TM SPR accesses are available (R201): the PCR does not forbid them in problem state, HFSCR.TM allows them outside
hypervisor state, and MSR.TM is 1. -/
def State.tmUsable (s : State) : Prop :=
  ¬ (msrPr s.msr = true ∧ s.tmDisabledByPcr = true) ∧ (s.hypervisorState = true ∨ s.controls.hfscrTm = true) ∧
    msrTm s.msr = true

/-- The bits 0 to 28, 32 and so on that an instruction copies from an image into the MSR. -/
def bitsFrom (bits : List Nat) (image new : Word) : Prop := ∀ k, k ∈ bits → bit new k = bit image k

/-- The facility holds no transaction (R151, R205); TDOOMED is undefined then (R54) and nothing is said of it. -/
def noTransaction (f : Facility) : Prop :=
  f.checkpoint = none ∧ f.readSet = [] ∧ f.rotReads = [] ∧ f.writeSet = [] ∧ f.txData = [] ∧ f.updatesDiscarded = false ∧
    f.handleOnResume = false ∧ f.pending = [] ∧ f.latent = [] ∧ f.awaited = [] ∧ f.specReads = [] ∧ f.specWrites = [] ∧
    f.executed = []

/-- `t` has the registers of `s` reverted to a checkpoint (R50, R52): CR0 and XER.FXCC keep their values. -/
def revertedTo (c : Checkpoint) (s t : State) : Prop :=
  t.regs = c.regs ∧ (∀ j, j ≠ 0 → crField t.cr j = crField c.cr j) ∧
    ∀ k, bit t.xer k = if bit Config.fxccMask k = true then bit s.xer k else bit c.xer k

/-- `t` has the failure of `s` recorded (R172): nothing if a failure was recorded already; else the cause, the state, the privilege, FS and the
exact address `ia`. -/
def recordedIn (cause : Word32) (ia : Word) (s t : State) : Prop :=
  t.sprs = { s.sprs with texasr := t.sprs.texasr, tfiar := t.sprs.tfiar } ∧
  (s.fs = true → t.sprs.texasr = s.sprs.texasr ∧ t.sprs.tfiar = s.sprs.tfiar) ∧
  (s.fs = false →
    texasrCause t.sprs.texasr = cause ∧
    bit t.sprs.texasr 32 = (bit s.sprs.texasr 32 || s.ts == tsS) ∧
    bit t.sprs.texasr 34 = msrHv s.msr ∧ bit t.sprs.texasr 35 = msrPr s.msr ∧
    bit t.sprs.texasr 36 = true ∧ bit t.sprs.texasr 37 = true ∧
    (∀ k, k = 33 ∨ 38 ≤ k → bit t.sprs.texasr k = bit s.sprs.texasr k) ∧
    (∀ k, k < 62 → bit t.sprs.tfiar k = bit ia k) ∧
    bit t.sprs.tfiar 62 = msrHv s.msr ∧ bit t.sprs.tfiar 63 = msrPr s.msr)

/-- `t` is `s` after failure handling with the checkpoint `c` (R175, R176), apart from the failure's record in TEXASR and TFIAR, the free
values drawn and the trace flag: registers reverted, CR0 = 0b1010, Non-transactional, at the failure handler, no transaction, no
reservation; storage and everything else as before. -/
def handledTo (c : Checkpoint) (s t : State) : Prop :=
  revertedTo c s t ∧ crField t.cr 0 = 0b1010 ∧ t.ts = tsN ∧ sameBitsBut [29, 30] s.msr t.msr ∧
  t.nia = wordAlign s.sprs.tfhar ∧ noTransaction t.tm ∧
  t = { s with
    regs := t.regs, cr := t.cr, xer := t.xer, msr := t.msr, nia := t.nia, sprs := t.sprs, tm := t.tm
    reservation := none, draws := t.draws, completed := t.completed }

/-- A conditional abort's condition holds between two numbers, given signed and unsigned (R212). -/
def abortHolds (cond : BitVec 5) (a b : Int) (ua ub : Nat) : Prop :=
  (bit cond 0 = true ∧ a < b) ∨ (bit cond 1 = true ∧ b < a) ∨ (bit cond 2 = true ∧ a = b) ∨
    (bit cond 3 = true ∧ ua < ub) ∨ (bit cond 4 = true ∧ ub < ua)

/-- An abort instruction asks for an abort, or does not: its condition (R211 to R215). The word forms compare the low words; their immediate
form compares the sign-extended values. -/
def abortAsked (s : State) : Instr → Prop
  | .tabort _ => True
  | .tabortwc cond ra rb =>
    abortHolds cond ((s.gpr ra).setWidth 32).toInt ((s.gpr rb).setWidth 32).toInt
      ((s.gpr ra).setWidth 32).toNat ((s.gpr rb).setWidth 32).toNat
  | .tabortwci cond ra si =>
    abortHolds cond ((s.gpr ra).setWidth 32).toInt si
      (BitVec.ofInt 64 ((s.gpr ra).setWidth 32).toInt).toNat (BitVec.ofInt 64 si).toNat
  | .tabortdc cond ra rb => abortHolds cond (s.gpr ra).toInt (s.gpr rb).toInt (s.gpr ra).toNat (s.gpr rb).toNat
  | .tabortdci cond ra si => abortHolds cond (s.gpr ra).toInt si (s.gpr ra).toNat (BitVec.ofInt 64 si).toNat
  | _ => False

/-- The cause with a software code: `GPR[RA][56:63] || 0x000001`, or 0x00000001 for RA = 0 (R211, R231). -/
def codeOf (s : State) (ra : RegNum) : Word32 :=
  if ra = 0 then 1 else BitVec.ofNat 32 ((s.gpr ra).toNat % 256 * 2 ^ 24 + 1)

/-- The cause an abort instruction records (R211 to R215). -/
def abortCauseOf (s : State) : Instr → Word32
  | .tabort ra => codeOf s ra
  | _ => 1

/-- The five abort instructions with immediates that fit. -/
def isAbort : Instr → Bool
  | .tabort _ => true
  | .tabortwc _ _ _ => true
  | .tabortwci _ _ si => siFits si
  | .tabortdc _ _ _ => true
  | .tabortdci _ _ si => siFits si
  | _ => false

/-- The transitions of `TS || TM` that Table 2 allows (R250): N to N; S0 with input N0, suppressed; S to T1; S to S. -/
def table2Allows (cur inp : BitVec 3) : Prop :=
  ((cur = 0b000 ∨ cur = 0b001) ∧ (inp = 0b000 ∨ inp = 0b001)) ∨ (cur = 0b010 ∧ inp = 0b000) ∨
    ((cur = 0b010 ∨ cur = 0b011) ∧ (inp = 0b101 ∨ inp = 0b010 ∨ inp = 0b011))

/-- The resulting `TS || TM` of an allowed transition (R250): S0 with input N0 stays, every other takes the input. -/
def table2Result (cur inp : BitVec 3) : BitVec 3 := if cur = 0b010 ∧ inp = 0b000 then cur else inp

/-- A return to problem state with an active transaction while TM is disabled by the PCR (R256): from S every allowed transition leaves the
transaction active, from N none does. -/
def pcrForbids (s : State) (image : Word) : Prop := bit image 49 = true ∧ s.ts ≠ tsN ∧ s.tmDisabledByPcr = true

/-- What rfid, hrfid and mtmsrd L=0 leave besides the MSR and NIA (R252 to R254): a reservation that was not established in Transactional state
is lost on a resume (R100). -/
def returnedTo (s t : State) : Prop :=
  t = { s with
    msr := t.msr, nia := t.nia, completed := t.completed
    reservation := if t.ts = tsT then s.reservation.filter (·.inTransaction) else s.reservation }

/-- A Floating-Point Enabled Exception is pending and the image's FE0 and FE1 enable it where the MSR's do not (R252, R285). -/
def fpArises (s : State) (image : Word) : Prop :=
  s.regs.fex = true ∧ bit s.msr 52 = false ∧ bit s.msr 55 = false ∧ (bit image 52 = true ∨ bit image 55 = true)

/-- EE, IR and DR of a loaded MSR: each the OR of the image's bit and its PR bit (R252 to R254). -/
def orsPr (image m : Word) : Prop :=
  bit m 48 = (bit image 48 || bit image 49) ∧ bit m 58 = (bit image 58 || bit image 49) ∧
    bit m 59 = (bit image 59 || bit image 49)

/-- The MSR that rfid loads, but for `TS || TM` (R252). -/
def rfidLoaded (s : State) (m : Word) : Prop :=
  bitsFrom ([0, 1, 2, 32, 37, 38, 39, 40, 41, 49, 50, 52, 53, 54, 55, 56, 57, 60, 61, 62, 63] ++
    [4, 5, 6, 7, 8, 9, 10, 11, 12, 13, 14, 15, 16, 17, 18, 19, 20, 21, 22, 23, 24, 25, 26, 27, 28]) s.sprs.srr1 m ∧
  bitsFrom [33, 34, 35, 36, 42, 43, 44, 45, 46, 47] s.msr m ∧
  bit m 3 = (bit s.msr 3 && bit s.sprs.srr1 3) ∧
  bit m 51 = ((bit s.msr 3 && bit s.sprs.srr1 51) || (!bit s.msr 3 && bit s.msr 51)) ∧
  orsPr s.sprs.srr1 m

/-- The MSR that hrfid loads, but for `TS || TM` (R253). -/
def hrfidLoaded (s : State) (m : Word) : Prop :=
  bitsFrom ([0, 1, 2, 3, 32, 37, 38, 39, 40, 41, 49, 50, 51, 52, 53, 54, 55, 56, 57, 60, 61, 62, 63] ++
    [4, 5, 6, 7, 8, 9, 10, 11, 12, 13, 14, 15, 16, 17, 18, 19, 20, 21, 22, 23, 24, 25, 26, 27, 28]) s.sprs.hsrr1 m ∧
  bitsFrom [33, 34, 35, 36, 42, 43, 44, 45, 46, 47] s.msr m ∧ orsPr s.sprs.hsrr1 m

/-- The MSR that mtmsrd L=0 loads, but for `TS || TM` (R254). -/
def mtmsrdLoaded (rs : RegNum) (s : State) (m : Word) : Prop :=
  bitsFrom ([0, 1, 2, 32, 33, 34, 35, 36, 37, 38, 39, 40, 41, 42, 43, 44, 45, 46, 47, 49, 50, 52, 53, 54, 55, 56, 57] ++
    [60, 61, 62, 4, 5, 6, 7, 8, 9, 10, 11, 12, 13, 14, 15, 16, 17, 18, 19, 20, 21, 22, 23, 24, 25, 26, 27, 28])
    (s.gpr rs) m ∧
  bitsFrom [3, 51, 63] s.msr m ∧ orsPr (s.gpr rs) m

/-- `<-iea` of a saved address: word aligned, and its low 32 bits in 32-bit mode (R252). -/
def ieaOf (address m n : Word) : Prop :=
  (bit m 0 = true → n.toNat = address.toNat / 4 * 4) ∧ (bit m 0 = false → n.toNat = address.toNat % 2 ^ 32 / 4 * 4)

/-- `t` is `s` with the MSR `m` loaded and then failure handling with the checkpoint `c` (R180, R252 corner case a). -/
def handledUnder (c : Checkpoint) (m : Word) (s t : State) : Prop :=
  revertedTo c s t ∧ crField t.cr 0 = 0b1010 ∧ t.ts = tsN ∧ sameBitsBut [29, 30] m t.msr ∧ noTransaction t.tm ∧
  t = { s with
    regs := t.regs, cr := t.cr, xer := t.xer, msr := t.msr, nia := wordAlign s.sprs.tfhar, tm := t.tm
    reservation := none, completed := t.completed }

/-- The address of the instruction that would come next under the MSR `m`: the failure handler's where handling is owed and `m` resumes the
transaction (R252 corner case a), else `a`. -/
def nextUnder (s : State) (m a : Word) : Word :=
  if s.ts = tsS ∧ msrTs m = tsT ∧ s.tm.handleOnResume = true then wordAlign s.sprs.tfhar else a

/-- The Program interrupt of a Floating-Point Enabled Exception that a change of the MSR to `m` has enabled: SRR0 is the next instruction's
address `a`, SRR1 has bits 43 and 47 and the MSR loaded (R285). -/
def fpReported (m a : Word) (t : State) : Prop :=
  t.sprs.srr0 = a ∧
    ∀ j, bit t.sprs.srr1 j =
      if (33 ≤ j ∧ j ≤ 36) ∨ (42 ≤ j ∧ j ≤ 47) then decide (j = 43 ∨ j = 47) else bit m j

/-- A load or store of the addresses meets no page with an exception for it, nor, in Transactional state, one of a disallowed type (R79). -/
def accessClear (s : State) (isStore : Bool) (addrs : List Nat) : Prop :=
  ∀ a, a ∈ addrs → ∀ p, s.pageAt a = some p → p.exceptionOf isStore = none ∧
    (s.ts = tsT → p.cachingInhibited = false ∧ p.writeThrough = false ∧ p.coherenceNotRequired = false)

/-- The pages after an access that was performed (R105): outside Transactional state R is set, and C by a store; in it they may be, C only by a
store and with R. -/
def accessMarked (isStore : Bool) (addrs : List Nat) (s t : State) : Prop :=
  ∃ r c, (c = true → r = true ∧ isStore = true) ∧ (s.ts ≠ tsT → r = true ∧ c = isStore) ∧
    t.pages = marked addrs r c s.pages

/-- The transaction is doomed, or a cause has arisen for which it will fail before it could commit (R161, R166, R357). -/
def Facility.failing (f : Facility) : Prop := f.tdoomed = true ∨ ∃ l, l ∈ f.latent ∧ l.certain = true

/-- A facility changed at most by a failure cause that arose or was detected: TDOOMED, the causes to be recorded and the latent ones. -/
def causesOnly (f g : Facility) : Prop := g = { f with tdoomed := g.tdoomed, pending := g.pending, latent := g.latent }

/-- The number that bytes make, the first the most significant. -/
def numberOf (l : List Byte) : Nat := l.foldl (fun n b => n * 256 + b.toNat) 0

/-- The byte a load sees before failure: the transaction's own store, if it made one (R81 d). -/
def seenByte (s : State) (a : Nat) : Byte := (cellAt s.tm.txData a).getD (s.mem.read a)

/-- The register whose storage an SPR name reads and writes: a part or a second name of a register shares its storage (R40, R46). -/
def Spr.whole : Spr → Spr
  | .amrUser => .amr
  | .texasru => .texasr
  | .ppr32 => .ppr
  | .tbu => .tb
  | .tbl => .tb
  | .tbu40 => .tb
  | .atbu => .atb
  | r => r

/-- A register of 32 bits (R46, column Length), but for the parts of registers. -/
def Spr.isWord : Spr → Bool
  | .vrsave => true
  | .dsisr => true
  | .dec => true
  | .ctrl => true
  | .ear => true
  | .pvr => true
  | .hdsisr => true
  | .hdec => true
  | .lpidr => true
  | .heir => true
  | .spefscr => true
  | .pir => true
  | _ => false

/-- The bits of `new` are those of `v` where `takes` says so, `shift` further right, and those of `old` elsewhere. -/
def bitsTaken (takes : Nat → Bool) (shift : Nat) (v old new : Word) : Prop :=
  ∀ k, k < 64 → bit new k = if takes k then bit v (k + shift) else bit old k

/-- What a write of `v` leaves in the register (R40, R46 notes 4, 6 and 7, R241): the whole of it, its low word for a 32-bit register, one
part for the name of a part; HMER ANDed; AMR and UAMOR, which "may be masked", as written or masked (log 32). -/
def sprWritten (v : Word) (s t : State) : Spr → Prop
  | .amrUser => t.regs.amr = v ∨ bitsTaken (bit s.sprs.uamor) 0 v s.regs.amr t.regs.amr
  | .amr => t.regs.amr = v ∨ bitsTaken (bit s.sprs.amor) 0 v s.regs.amr t.regs.amr
  | .uamor => t.sprs.uamor = v ∨ ∀ k, bit t.sprs.uamor k = (bit v k && bit s.sprs.amor k)
  | .hmer => ∀ k, bit t.sprs.hmer k = (bit v k && bit s.sprs.hmer k)
  | .texasru => bitsTaken (fun k => decide (k < 32)) 32 v s.sprs.texasr t.sprs.texasr
  | .ppr32 => bitsTaken (fun k => decide (k < 32)) 32 v s.regs.ppr t.regs.ppr
  | .tbu => bitsTaken (fun k => decide (k < 32)) 32 v s.sprs.tb t.sprs.tb
  | .atbu => bitsTaken (fun k => decide (k < 32)) 32 v s.sprs.atb t.sprs.atb
  | .tbl => bitsTaken (fun k => decide (32 ≤ k)) 0 v s.sprs.tb t.sprs.tb
  | .tbu40 => bitsTaken (fun k => decide (k < 40)) 0 v s.sprs.tb t.sprs.tb
  | r => (t.readSpr r).toNat = if r.isWord then v.toNat % 2 ^ 32 else v.toNat

/-- A boundary at which no other agent acts. -/
def quietAt (s : State) : Prop := s.boundary.external = [] ∧ s.boundary.agent = AgentDraw.quiet

/-- An event at which another processor stores. -/
def isStoreEvent : ExternalEvent → Bool
  | .store _ _ _ => true
  | _ => false

end Sys2Proof.Machine
end

