-- ==== Sys2Proof/Certificates/Slice0/Obligations.lean ====
section
/-!
DEFINITION. The statements for the provers.
-/

open Sys2Proof Sys2Proof.Machine

/-! ### Encoding -/

/-- Every well-formed instruction decodes from its encoding: no operand bit is dropped (R123, R124, R128, R129). -/
def Obligations.DecodeEncode : Prop := ∀ i : Instr, i.wellFormed = true → decodeWord (encode i) = .ok i

/-- A word that decodes is the encoding of what it decodes to: each word has one meaning, and no bit of it is ignored (R125, R129). -/
def Obligations.EncodeDecode : Prop := ∀ (w : Word32) (i : Instr), decodeWord w = .ok i → i.wellFormed = true ∧ encode i = w

/-- Words of the opcode table decode to the instructions they stand for. Eight of them R134 writes out; 0x7C6223A6, mtspr 130,r3, is
computed from R127 and R128 as R134 computes its own mtspr word; the extended opcode 467 of mtspr is general knowledge and not in the source
(R127); 0x4C000324 is R127's `match` of doze. -/
def Obligations.DecodeSpecWords : Prop :=
  decodeWord 0x7C20051D = .ok (.tbegin false true) ∧ decodeWord 0x7E00055D = .ok (.tend true) ∧
  decodeWord 0x7C05071D = .ok (.tabort 5) ∧ decodeWord 0x7C83261D = .ok (.tabortwc 4 3 4) ∧
  decodeWord 0x7C2005DD = .ok (.tsr true) ∧ decodeWord 0x7F80059C = .ok (.tcheck 7) ∧
  decodeWord 0x7C03075D = .ok (.treclaim 3) ∧ decodeWord 0x7C8322A6 = .ok (.mfspr 4 131) ∧
  decodeWord 0x7C6223A6 = .ok (.mtspr 130 3) ∧ decodeWord 0x4C000324 = .ok .doze

/-- A word of a row with a reserved bit set is refused as such, bit 31 among them where it is reserved (R125, R132; the refusal is the spec's
decision D5, log 11), and so is the word of a dotted TM instruction with bit 31 = 0 (R132). -/
def Obligations.DecodeReserved : Prop :=
  ∀ (w : Word32) (o : Opcode),
    (w &&& opcodeMask = o.matchBits → w &&& o.reservedBits ≠ 0 → decodeWord w = .error .reservedField) ∧
    (o.matchBits.getLsbD 0 = false → w &&& opcodeMask = o.matchBits ||| 1 → decodeWord w = .error .reservedField) ∧
    (o.matchBits.getLsbD 0 = true → w &&& opcodeMask = o.matchBits &&& ~~~1 →
      decodeWord w = .error .undefinedEncoding)

/-! ### The machine as a whole -/

/-- Where nothing else happens at the boundary and the bytes at NIA decode to `i`, a step is `exec i`, traced if MSR.SE was 1; before it the
state changes only in the input tape, the free values drawn, the Reference bits of the instruction's pages and, with a transaction active, the
list of its executed instructions, and in the failure causes only where the instruction was fetched from a block the transaction wrote or shows
a byte a conflicting store has overwritten (R184; R105, R109, R54, R173). -/
def Obligations.StepRunsDecoded : Prop :=
  ∀ (s : State) (i : Instr), s.unreachableTs = false → quietAt s → s.power = .running → s.nextInterrupt = none →
    s.fpDue = false → (s.ts = tsT → s.tm.handleOnResume = false) →
    (∀ p, s.pageAt (s.effective s.nia).toNat = some p →
      p.fetchException = none ∧ (s.ts = tsT → p.cachingInhibited = false)) →
    s.fetchDecode = .ok i →
    ∃ u : State, step s = traceAfter (msrSe s.msr) (exec i u) ∧
      u = { s with tape := u.tape, draws := u.draws, tm := u.tm, pages := marked s.fetchAddresses true false s.pages } ∧
      causesOnly { s.tm with executed := if s.ts = tsN then s.tm.executed else s.tm.executed ++ [s.nia] } u.tm ∧
      (s.tm.tdoomed = true → u.tm.tdoomed = true) ∧
      (touches (s.tm.writeSet ++ s.tm.specWrites) s.fetchAddresses = false → (∀ l, l ∈ s.tm.latent → l.certain = false) →
        u.tm.tdoomed = s.tm.tdoomed ∧ u.tm.pending = s.tm.pending ∧ u.tm.latent = s.tm.latent)

/-- Every step keeps the invariant of the machine, from every state that has it (R150, R158, R185). -/
def Obligations.StepKeepsInvariant : Prop := ∀ s t : State, s.Inv → step s = .next t → t.Inv

/-- The state after reset, for any reset vector, parameters, PCR and control bits, has the invariant: it is one of the states the invariant
allows (R185). -/
def Obligations.ResetInvariant : Prop :=
  ∀ (vector : Word) (params : Params) (pcr : Word) (controls : Controls), (State.resetAt vector params pcr controls).Inv

/-- After reset no transaction is executing (R61, R151) and TM is disabled (D12), at any reset vector, with LE from HILE (R341); the PCR and
HFSCR.TM, with the other control bits, are parameters (R61). -/
def Obligations.ResetState : Prop :=
  ∀ (vector : Word) (params : Params) (pcr : Word) (controls : Controls),
    let s := State.resetAt vector params pcr controls
    s.ts = tsN ∧ msrTm s.msr = false ∧ msrLe s.msr = controls.hile ∧ noTransaction s.tm ∧ s.power = .running ∧ s.nia = wordAlign vector ∧
      s.params = params ∧ s.sprs.pcr = pcr ∧ s.controls = controls

/-- A transaction's stores stay invisible until it commits: in Transactional state, with no store by another processor, a step leaves storage as
it was, unless it is a tend. that commits, which stores the transactional data and ends the transaction (R82, R87, R89); a doomed transaction
never commits (R170). -/
def Obligations.TransactionIsolation : Prop :=
  ∀ s t : State, s.Inv → s.ts = tsT → (∀ e, e ∈ s.boundary.external → isStoreEvent e = false) → step s = .next t →
    t.mem = s.mem ∨
      (s.tm.tdoomed = false ∧ t.ts = tsN ∧ (∃ a, s.fetchDecode = .ok (.tend a)) ∧
        t.mem = s.mem.writeCells s.tm.txData)

/-- The failure handler's address cannot change while a transaction is active (R185 item 3). -/
def Obligations.HandlerAddressKept : Prop :=
  ∀ s t : State, s.Inv → s.ts ≠ tsN → step s = .next t → t.sprs.tfhar = s.sprs.tfhar

/-- Only tbegin. and trechkpt. leave Non-transactional state (R157, R259). -/
def Obligations.LeaveNontransactional : Prop :=
  ∀ s t : State, s.Inv → s.ts = tsN → (∀ e, e ∈ s.boundary.external → isStoreEvent e = false) → step s = .next t →
    t.ts = tsN ∨ (∃ a r, s.fetchDecode = .ok (.tbegin a r)) ∨ s.fetchDecode = .ok .trechkpt

/-! ### Failure recording and handling -/

/-- `TMRecordFailure` (R172): a single recording for a transaction; the address is exact where it is known, else TFIAR[0:61] is any value. -/
def Obligations.RecordFailure : Prop :=
  ∀ (s : State) (cause : Word32) (ia : Option Word),
    let t := s.recordFailure cause ia
    (s.fs = true → t = s) ∧
    (s.fs = false →
      t = { s with
        sprs := { s.sprs with texasr := t.sprs.texasr, tfiar := t.sprs.tfiar }
        tm := { s.tm with tdoomed := true }
        draws := t.draws } ∧
      texasrCause t.sprs.texasr = cause ∧
      bit t.sprs.texasr 32 = (bit s.sprs.texasr 32 || s.ts == tsS) ∧
      bit t.sprs.texasr 34 = msrHv s.msr ∧ bit t.sprs.texasr 35 = msrPr s.msr ∧
      bit t.sprs.texasr 36 = true ∧ bit t.sprs.texasr 37 = ia.isSome ∧
      (∀ k, k = 33 ∨ 38 ≤ k → bit t.sprs.texasr k = bit s.sprs.texasr k) ∧
      (∀ a, ia = some a → ∀ k, k < 62 → bit t.sprs.tfiar k = bit a k) ∧
      bit t.sprs.tfiar 62 = msrHv s.msr ∧ bit t.sprs.tfiar 63 = msrPr s.msr)

/-- `TMHandleFailure` (R175, R176): registers reverted, storage updates and resources discarded, CR0 = 0b1010, Non-transactional, at TFHAR;
TEXASR, TFIAR, TFHAR and every other special register, and storage, unchanged; the reservation lost (R100). That the low bits of TFHAR are
taken as zeros is the spec's decision D7 (log 13), that a mask says which XER bits are XER.FXCC its decision D6 (log 9). -/
def Obligations.HandleFailure : Prop :=
  ∀ (s : State) (c : Checkpoint), s.tm.checkpoint = some c →
    ∃ t, s.handleFailure = .next t ∧ handledTo c s t ∧ t.sprs = s.sprs

/-! ### tbegin. and tend. -/

/-- An outer tbegin. (R202): CR0 = 0b0000, TEXASR = level 1 with ROT, TFHAR = CIA + 4, a checkpoint of the registers, an empty
footprint, Transactional; the reservation lost (R100); the barriers for a normal transaction (R94). -/
def Obligations.TbeginOuter : Prop :=
  ∀ (a r : Bool) (s : State), s.tmUsable → s.ts = tsN →
    ∃ t c, exec (.tbegin a r) s = .next t ∧ crFieldSet 0 0b0000 s.cr t.cr ∧
      t.ts = tsT ∧ sameBitsBut [29, 30] s.msr t.msr ∧
      t.sprs.texasr.toNat = (if r then 2 ^ 25 else 0) + 1 ∧
      t.sprs = { s.sprs with texasr := t.sprs.texasr, tfhar := s.nia + 4 } ∧
      t.tm = { Facility.idle with checkpoint := some c, tdoomed := false } ∧
      c.regs = s.regs ∧ c.xer = s.xer ∧ (∀ j, j ≠ 0 → crField c.cr j = crField s.cr j) ∧
      t = { s with
        cr := t.cr, msr := t.msr, sprs := t.sprs, tm := t.tm, nia := s.nia + 4, reservation := none, completed := true
        storageLog := if r then s.storageLog
          else s.storageLog ++ [.barrier .mbll, .barrier .mbls, .barrier .mbsl, .barrier .mbss] }

/-- A nested tbegin. below the maximum level (R202): CR0 = 0b0100, the level one higher; a normal tbegin. in a ROT clears ROT and makes the
barriers; whether the reservation is lost is undefined (R100 item b). That A = 1 has no effect is the spec's decision D9 (log 12). A level above
the maximum, which no run reaches, is left out. -/
def Obligations.TbeginNested : Prop :=
  ∀ (a r : Bool) (s : State), s.tmUsable → s.ts = tsT → (texasrTl s.sprs.texasr).toNat < Config.tlMax →
    ∃ t, exec (.tbegin a r) s = .next t ∧ crFieldSet 0 0b0100 s.cr t.cr ∧
      (texasrTl t.sprs.texasr).toNat = (texasrTl s.sprs.texasr).toNat + 1 ∧
      texasrRot t.sprs.texasr = (texasrRot s.sprs.texasr && r) ∧
      (∀ k, k < 52 → k ≠ 38 → bit t.sprs.texasr k = bit s.sprs.texasr k) ∧
      (t.reservation = s.reservation ∨ t.reservation = none) ∧
      t = { s with
        cr := t.cr, sprs := { s.sprs with texasr := t.sprs.texasr }, nia := s.nia + 4, completed := true
        reservation := t.reservation, draws := t.draws
        storageLog := if texasrRot s.sprs.texasr && !r
          then s.storageLog ++ [.barrier .mbll, .barrier .mbls, .barrier .mbsl, .barrier .mbss] else s.storageLog }

/-- tbegin. at the maximum level (R202): the failure is recorded with the parameter `NestOverflowCause`, 0x00400000 or 0x01400000 (R6,
conflict C2, log 10), and the address of the tbegin., and handled. That A = 1 has no effect is the spec's decision D9 (log 12). -/
def Obligations.TbeginOverflow : Prop :=
  ∀ (a r : Bool) (s : State) (c : Checkpoint), s.tmUsable → s.ts = tsT →
    (texasrTl s.sprs.texasr).toNat = Config.tlMax → s.tm.checkpoint = some c →
    ∃ t, exec (.tbegin a r) s = .next t ∧
      recordedIn (if s.params.nestOverflowPersistent then 0x01400000 else 0x00400000) s.nia s t ∧ handledTo c s t ∧
      t.completed = false

/-- tbegin. in Suspended state merely updates CR0 (R155), to 0b0010 (R202). -/
def Obligations.TbeginSuspended : Prop :=
  ∀ (a r : Bool) (s : State), s.tmUsable → s.ts = tsS →
    ∃ t, exec (.tbegin a r) s = .next t ∧ crFieldSet 0 0b0010 s.cr t.cr ∧
      t = { s with cr := t.cr, nia := s.nia + 4, completed := true }

/-- tend. that commits (R203, R89, R205): every byte the transaction stored is in storage and no other byte changed, the registers keep their
values, TL = 0, Non-transactional, nothing of the transaction is left, the reservation is lost; CR0 = 0b0100; the barriers of a normal
transaction (R92, R95), none for a ROT (R97). That its accesses set their Reference and Change bits by the commit is read from R105 by inference
(log 41). -/
def Obligations.TendCommits : Prop :=
  ∀ (a : Bool) (s : State), s.tmUsable → s.ts = tsT → (a = true ∨ texasrTl s.sprs.texasr = 1) →
    ¬ s.tm.failing → cellsRise s.tm.txData →
    ∃ t, exec (.tend a) s = .next t ∧ crFieldSet 0 0b0100 s.cr t.cr ∧
      (∀ x, t.mem.read x = (cellAt s.tm.txData x).getD (s.mem.read x)) ∧
      t.ts = tsN ∧ sameBitsBut [29, 30] s.msr t.msr ∧ noTransaction t.tm ∧
      texasrTl t.sprs.texasr = 0 ∧ (∀ k, k < 52 → bit t.sprs.texasr k = bit s.sprs.texasr k) ∧
      t.pages = marked (s.tm.writeSet.map (·.addr)) true true
        (marked ((s.tm.readSet ++ s.tm.rotReads).map (·.addr)) true false s.pages) ∧
      t = { s with
        cr := t.cr, msr := t.msr, nia := s.nia + 4, tm := t.tm, mem := t.mem, completed := true
        sprs := { s.sprs with texasr := t.sprs.texasr }, reservation := none, pages := t.pages
        storageLog := s.storageLog ++
          if s.rot then [.rotStores s.tm.txData]
          else [.cumulativeBarrier, .aggregateStore s.tm.txData, .barrier .mbll, .barrier .mbls, .barrier .mbsl,
            .barrier .mbss] }

/-- tend. A=0 of a nested transaction (R203): the level is one lower and the transaction goes on; CR0 = 0b0100; whether the reservation is lost is
undefined (R100 item b). That a level above the maximum, which no run reaches, is tested and lowered on all 12 bits of TEXASR.TL is the model's
choice: R203 (c) and U25 leave the width open (DESIGN CHOICE, log 7). -/
def Obligations.TendNested : Prop :=
  ∀ s : State, s.tmUsable → s.ts = tsT → 1 < (texasrTl s.sprs.texasr).toNat →
    ∃ t, exec (.tend false) s = .next t ∧ crFieldSet 0 0b0100 s.cr t.cr ∧
      (texasrTl t.sprs.texasr).toNat + 1 = (texasrTl s.sprs.texasr).toNat ∧
      (∀ k, k < 52 → bit t.sprs.texasr k = bit s.sprs.texasr k) ∧
      (t.reservation = s.reservation ∨ t.reservation = none) ∧
      t = { s with
        cr := t.cr, sprs := { s.sprs with texasr := t.sprs.texasr }, nia := s.nia + 4, completed := true
        reservation := t.reservation, draws := t.draws }

/-- A commit attempt of a transaction that is doomed, or for which a certain cause of failure has arisen (R161, R166, R203, R357): no store
is made and no barrier, the registers revert, and control goes to the failure handler; a failure that was recorded stays as recorded (R174).
-/
def Obligations.TendDoomed : Prop :=
  ∀ (a : Bool) (s : State) (c : Checkpoint), s.tmUsable → s.ts = tsT → (a = true ∨ texasrTl s.sprs.texasr = 1) →
    s.tm.failing → s.tm.checkpoint = some c →
    ∃ t, exec (.tend a) s = .next t ∧ handledTo c s t ∧ t.fs = true ∧
      t.sprs = { s.sprs with texasr := t.sprs.texasr, tfiar := t.sprs.tfiar } ∧
      texasrTl t.sprs.texasr = texasrTl s.sprs.texasr ∧ (s.fs = true → t.sprs = s.sprs)

/-- tend. outside a transaction writes CR0 = 0b0000 and nothing else (R203). -/
def Obligations.TendNontransactional : Prop :=
  ∀ (a : Bool) (s : State), s.tmUsable → s.ts = tsN →
    ∃ t, exec (.tend a) s = .next t ∧ crFieldSet 0 0b0000 s.cr t.cr ∧
      t = { s with cr := t.cr, nia := s.nia + 4, completed := true }

/-! ### The aborts -/

/-- An abort instruction in Non-transactional state, or a conditional one whose condition is false, only writes CR0 with the state before
(R210 to R215). -/
def Obligations.AbortNoEffect : Prop :=
  ∀ (i : Instr) (s : State), isAbort i = true → s.tmUsable → (s.ts = tsN ∨ ¬ abortAsked s i) →
    ∃ t, exec i s = .next t ∧ crFieldSet 0 (0#1 ++ s.ts ++ 0#1) s.cr t.cr ∧
      t = { s with cr := t.cr, nia := s.nia + 4, completed := true }

/-- An abort in Transactional state (R210 to R215): the failure is recorded with its cause and the abort's own address, and handled at once; the
instruction completes. -/
def Obligations.AbortTransactional : Prop :=
  ∀ (i : Instr) (s : State) (c : Checkpoint), isAbort i = true → s.tmUsable → s.ts = tsT → abortAsked s i →
    s.tm.checkpoint = some c →
    ∃ t, exec i s = .next t ∧ recordedIn (abortCauseOf s i) s.nia s t ∧ handledTo c s t ∧ t.completed = true

/-- An abort in Suspended state (R180, R210): recorded, the speculative storage updates discarded, the rest of handling owed on resume; the
registers are not reverted and the state stays Suspended. -/
def Obligations.AbortSuspended : Prop :=
  ∀ (i : Instr) (s : State), isAbort i = true → s.tmUsable → s.ts = tsS → abortAsked s i →
    ∃ t, exec i s = .next t ∧ crFieldSet 0 0b0010 s.cr t.cr ∧ recordedIn (abortCauseOf s i) s.nia s t ∧ t.fs = true ∧
      t.tm = { s.tm with
        tdoomed := t.tm.tdoomed, txData := [], updatesDiscarded := true, handleOnResume := true } ∧
      (s.fs = false → t.tm.tdoomed = true) ∧
      t = { s with cr := t.cr, sprs := t.sprs, tm := t.tm, nia := s.nia + 4, completed := true }

/-! ### tsr. and tcheck -/

/-- tsuspend. in Transactional state: Suspended; the transaction and the reservation stay (R220, R100). -/
def Obligations.TsrSuspends : Prop :=
  ∀ s : State, s.tmUsable → s.ts = tsT →
    ∃ t, exec (.tsr false) s = .next t ∧ crFieldSet 0 0b0100 s.cr t.cr ∧ t.ts = tsS ∧
      sameBitsBut [29, 30] s.msr t.msr ∧
      t = { s with cr := t.cr, msr := t.msr, nia := s.nia + 4, completed := true }

/-- tresume. in Suspended state: Transactional, where no handling is owed; a reservation established in Suspended state is lost (R220,
R100). -/
def Obligations.TsrResumes : Prop :=
  ∀ s : State, s.tmUsable → s.ts = tsS → s.tm.handleOnResume = false →
    ∃ t, exec (.tsr true) s = .next t ∧ crFieldSet 0 0b0010 s.cr t.cr ∧ t.ts = tsT ∧
      sameBitsBut [29, 30] s.msr t.msr ∧
      t = { s with
        cr := t.cr, msr := t.msr, nia := s.nia + 4, completed := true
        reservation := s.reservation.filter (·.inTransaction) }

/-- tresume. where handling is owed: failure handling runs before any further instruction (R180, R220). -/
def Obligations.TsrResumeHandles : Prop :=
  ∀ (s : State) (c : Checkpoint), s.tmUsable → s.ts = tsS → s.tm.handleOnResume = true → s.tm.checkpoint = some c →
    ∃ t, exec (.tsr true) s = .next t ∧ handledTo c s t ∧ t.sprs = s.sprs ∧ t.completed = true

/-- tsr. that changes no state: tsuspend. outside Transactional state and tresume. outside Suspended state write CR0 only (R220). -/
def Obligations.TsrNoChange : Prop :=
  ∀ (l : Bool) (s : State), s.tmUsable → (l = false → s.ts ≠ tsT) → (l = true → s.ts ≠ tsS) →
    ∃ t, exec (.tsr l) s = .next t ∧ crFieldSet 0 (0#1 ++ s.ts ++ 0#1) s.cr t.cr ∧
      t = { s with cr := t.cr, nia := s.nia + 4, completed := true }

/-- tcheck (R221): `TDOOMED || TS || 0` into the CR field, after every conflict that exists on a location whose load tcheck waits for has set
TDOOMED or is settled not to; a certain one sets it. In Non-transactional state bit 0 of the field is any value (R54). -/
def Obligations.Tcheck : Prop :=
  ∀ (bf : BitVec 3) (s : State), s.tmUsable →
    ∃ t d, exec (.tcheck bf) s = .next t ∧
      (s.ts ≠ tsN → d = t.tm.tdoomed ∧ (s.tm.tdoomed = true → d = true) ∧
        ((∃ l, l ∈ s.tm.latent ∧ l.on s.tm.awaited = true ∧ l.certain = true) → d = true) ∧
        ((∀ l, l ∈ s.tm.latent → l.on s.tm.awaited = false) → d = s.tm.tdoomed) ∧
        (∀ l, l ∈ t.tm.latent ↔ l ∈ s.tm.latent ∧ l.on s.tm.awaited = false)) ∧
      (s.ts = tsN → t.tm = s.tm) ∧
      causesOnly s.tm t.tm ∧ crFieldSet bf (BitVec.ofBool d ++ s.ts ++ 0#1) s.cr t.cr ∧
      t = { s with cr := t.cr, nia := s.nia + 4, completed := true, draws := t.draws, tm := t.tm }

/-! ### treclaim. and trechkpt. -/

/-- treclaim. of an active transaction (R231): recorded, registers reverted, all discarded, Non-transactional, the handler not invoked;
CR0 tells the state before; whether the reservation is lost is undefined (R100). -/
def Obligations.TreclaimReclaims : Prop :=
  ∀ (ra : RegNum) (s : State) (c : Checkpoint), msrPr s.msr = false → s.tmUsable → s.ts ≠ tsN →
    s.tm.checkpoint = some c →
    ∃ t, exec (.treclaim ra) s = .next t ∧ recordedIn (codeOf s ra) s.nia s t ∧ revertedTo c s t ∧
      crField t.cr 0 = 0#1 ++ s.ts ++ 0#1 ∧ t.ts = tsN ∧ sameBitsBut [29, 30] s.msr t.msr ∧ noTransaction t.tm ∧
      (t.reservation = s.reservation ∨ t.reservation = none) ∧
      t = { s with
        regs := t.regs, cr := t.cr, xer := t.xer, msr := t.msr, nia := s.nia + 4, sprs := t.sprs, tm := t.tm
        reservation := t.reservation, draws := t.draws, completed := true }

/-- trechkpt. (R232): a doomed, suspended transaction with the registers' values as its checkpoint, no footprint, and handling owed on
resume (D16); CR0 = 0b0000. -/
def Obligations.TrechkptRebuilds : Prop :=
  ∀ s : State, msrPr s.msr = false → s.tmUsable → s.ts = tsN → s.fs = true →
    ∃ t c, exec .trechkpt s = .next t ∧ crFieldSet 0 0b0000 s.cr t.cr ∧ t.ts = tsS ∧
      sameBitsBut [29, 30] s.msr t.msr ∧
      t.tm = { Facility.idle with
        tdoomed := true, checkpoint := some c, updatesDiscarded := true, handleOnResume := true } ∧
      c.regs = s.regs ∧ c.xer = s.xer ∧ (∀ j, j ≠ 0 → crField c.cr j = crField s.cr j) ∧
      (t.reservation = s.reservation ∨ t.reservation = none) ∧
      t = { s with
        cr := t.cr, msr := t.msr, nia := s.nia + 4, tm := t.tm, reservation := t.reservation, draws := t.draws
        completed := true }

/-- The TM Bad Thing exceptions (R286 items 3 to 7): trechkpt. in Transactional or Suspended state or with FS = 0, tend. in Suspended state,
treclaim. in Non-transactional state, mtspr of a TM register outside Non-transactional state, a power-saving instruction in Suspended state. -/
def Obligations.TmBadThings : Prop :=
  ∀ s : State,
    (s.tmUsable → msrPr s.msr = false → (s.ts ≠ tsN ∨ s.fs = false) → exec .trechkpt s = .next s.tmBadThing) ∧
    (s.tmUsable → s.ts = tsS → ∀ a, exec (.tend a) s = .next s.tmBadThing) ∧
    (s.tmUsable → msrPr s.msr = false → s.ts = tsN → ∀ ra, exec (.treclaim ra) s = .next s.tmBadThing) ∧
    (s.tmUsable → s.ts ≠ tsN → ∀ n rs, 128 ≤ n → n ≤ 131 → exec (.mtspr n rs) s = .next s.tmBadThing) ∧
    (s.hypervisorState = true → s.ts = tsS →
      exec .doze s = .next s.tmBadThing ∧ exec .nap s = .next s.tmBadThing ∧ exec .sleep s = .next s.tmBadThing ∧
        exec .rvwinkle s = .next s.tmBadThing)

/-! ### Special purpose registers -/

/-- mfspr (R240): RT takes the register's value, but zero for a TFIAR recorded in a state more privileged than the reader's; nothing else
changes. -/
def Obligations.MfsprReads : Prop :=
  ∀ (rt : RegNum) (n : Nat) (s : State) (reg : Spr) (level : PrivLevel), mfsprRow n = some (reg, level) →
    s.mayRun level = true → (reg.isTm = true → s.tmUsable) →
    ∃ t, exec (.mfspr rt n) s = .next t ∧
      ((n ≠ 129 ∨ s.hvPr = 0b10 ∨ s.sprs.tfiar.extractLsb' 0 2 = s.hvPr ∨
          (s.hvPr = 0b00 ∧ s.sprs.tfiar.extractLsb' 0 2 = 0b01)) → t.gpr rt = s.readSpr reg) ∧
      (¬ (n ≠ 129 ∨ s.hvPr = 0b10 ∨ s.sprs.tfiar.extractLsb' 0 2 = s.hvPr ∨
          (s.hvPr = 0b00 ∧ s.sprs.tfiar.extractLsb' 0 2 = 0b01)) → t.gpr rt = 0) ∧
      (∀ q, q ≠ rt → t.gpr q = s.gpr q) ∧
      t = { s with regs := { s.regs with gpr := t.regs.gpr }, nia := s.nia + 4, completed := true }

/-- mtspr (R241, R245): the register is written, where its level suffices, a TM SPR only in Non-transactional state with the facility available,
another register outside the speculative set not in Transactional state. That number 29, a second name of the AMR, counts as speculative in
Transactional state, where the list of R163 gives AMR as 13, is the model's inference (DEDUCED, log 35). -/
def Obligations.MtsprWrites : Prop :=
  ∀ (n : Nat) (rs : RegNum) (s : State) (reg : Spr) (level : PrivLevel), mtsprRow n = some (reg, level) →
    s.mayRun level = true → (reg.isTm = true → s.tmUsable ∧ s.ts = tsN) →
    (reg.isTm = false → s.ts = tsT → reg.isSpeculative = true) →
    exec (.mtspr n rs) s = .next { s.writeSpr (s.gpr rs) reg with nia := s.nia + 4, completed := true }

/-- What a write of each register of Figure 1 leaves in it (`sprWritten`: R40, R46, R241, R243, D8), that every other register reads as
before, and that nothing else of the thread changes. That 32-bit registers take the low word is R241's; how the AMR and the UAMOR are
masked, if they are, is log 32, that the performance monitor registers have two numbers log 33. -/
def Obligations.SprWriteEffect : Prop :=
  ∀ (s : State) (v : Word) (reg : Spr),
    sprWritten v s (s.writeSpr v reg) reg ∧
    (∀ other : Spr, other.whole ≠ reg.whole → (s.writeSpr v reg).readSpr other = s.readSpr other) ∧
    s.writeSpr v reg = { s with
      regs := { (s.writeSpr v reg).regs with
        gpr := s.regs.gpr, vsr := s.regs.vsr, fpscr := s.regs.fpscr, fex := s.regs.fex, vscr := s.regs.vscr
        tar := s.regs.tar }
      xer := (s.writeSpr v reg).xer, sprs := (s.writeSpr v reg).sprs, draws := (s.writeSpr v reg).draws }

/-- mtspr in Transactional state to a register that is neither speculative nor a TM SPR: the transaction fails with cause 0x01800000, the register
is not written and the instruction is not traced (R163, R245). -/
def Obligations.MtsprDisallowed : Prop :=
  ∀ (n : Nat) (rs : RegNum) (s : State) (reg : Spr) (level : PrivLevel) (c : Checkpoint),
    mtsprRow n = some (reg, level) → s.mayRun level = true → s.ts = tsT → reg.isTm = false →
    reg.isSpeculative = false → s.tm.checkpoint = some c →
    ∃ t, exec (.mtspr n rs) s = .next t ∧ recordedIn 0x01800000 s.nia s t ∧ handledTo c s t ∧ t.completed = false

/-- SPR numbers that are not defined (R242): with bit spr0, Privileged Instruction in problem state, else a no-op; without it, Hypervisor
Emulation Assistance in problem state and for SPR 0, else a no-op. In Transactional state mtspr of one fails the transaction, but for the
Privileged Instruction interrupt, which comes first (R163, R167). Every row of Figure 1 is taken as implemented (log 31); that mfspr follows
the same cases is R242's own extension; the form of Hypervisor Emulation Assistance, and mtspr in Transactional state, are log 34. -/
def Obligations.UndefinedSpr : Prop :=
  ∀ (n : Nat) (r : RegNum) (s : State), n < 1024 →
    (mfsprRow n = none →
      (n / 16 % 2 = 1 → msrPr s.msr = true → exec (.mfspr r n) s = .next s.privilegedInstruction) ∧
      (n / 16 % 2 = 0 → (msrPr s.msr = true ∨ n = 0) → exec (.mfspr r n) s = .next s.emulationAssistance) ∧
      (msrPr s.msr = false → n ≠ 0 → exec (.mfspr r n) s = .next { s with nia := s.nia + 4, completed := true })) ∧
    (mtsprRow n = none →
      (n / 16 % 2 = 1 → msrPr s.msr = true → exec (.mtspr n r) s = .next s.privilegedInstruction) ∧
      (s.ts ≠ tsT →
        (n / 16 % 2 = 0 → (msrPr s.msr = true ∨ n = 0) → exec (.mtspr n r) s = .next s.emulationAssistance) ∧
        (msrPr s.msr = false → n ≠ 0 → exec (.mtspr n r) s = .next { s with nia := s.nia + 4, completed := true })) ∧
      (s.ts = tsT → ¬ (n / 16 % 2 = 1 ∧ msrPr s.msr = true) → ∀ c, s.tm.checkpoint = some c →
        ∃ t, exec (.mtspr n r) s = .next t ∧ recordedIn 0x01800000 s.nia s t ∧ handledTo c s t ∧ t.completed = false))

/-- Figure 1's rows of the TM registers: 128 to 131 name TFHAR, TFIAR, TEXASR and its upper half, for both moves, in problem state; and what
they read as (R40, R46). -/
def Obligations.TmSprNumbers : Prop :=
  (mfsprRow 128 = some (.tfhar, .problem) ∧ mfsprRow 129 = some (.tfiar, .problem) ∧
    mfsprRow 130 = some (.texasr, .problem) ∧ mfsprRow 131 = some (.texasru, .problem)) ∧
  (mtsprRow 128 = some (.tfhar, .problem) ∧ mtsprRow 129 = some (.tfiar, .problem) ∧
    mtsprRow 130 = some (.texasr, .problem) ∧ mtsprRow 131 = some (.texasru, .problem)) ∧
  ∀ s : State, s.readSpr .tfhar = s.sprs.tfhar ∧ s.readSpr .tfiar = s.sprs.tfiar ∧ s.readSpr .texasr = s.sprs.texasr ∧
    (s.readSpr .texasru).toNat = s.sprs.texasr.toNat / 2 ^ 32

/-! ### MSR linkage -/

/-- Table 2 as the function of R251: the pair (S0, N0) is kept, every other allowed transition writes the input, and every transition that is not
allowed is a TM Bad Thing. -/
def Obligations.Table2 : Prop :=
  ∀ cur inp : BitVec 3, cur ≠ 0b100 → cur ≠ 0b101 → cur ≠ 0b110 → cur ≠ 0b111 →
    (cur = 0b010 ∧ inp = 0b000 → tmTransition cur inp = .keep) ∧
    (table2Allows cur inp → ¬ (cur = 0b010 ∧ inp = 0b000) → tmTransition cur inp = .write inp) ∧
    (¬ table2Allows cur inp → tmTransition cur inp = .badThing)

/-- rfid that completes (R252): the MSR from SRR1 bit by bit, HV only cleared, ME taken only in hypervisor mode, `TS || TM` by Table 2; the next
instruction at SRR0; not traced. -/
def Obligations.RfidReturns : Prop :=
  ∀ s : State, msrPr s.msr = false → s.ts ≠ tsT → table2Allows (msrTsTm s.msr) (msrTsTm s.sprs.srr1) →
    ¬ pcrForbids s s.sprs.srr1 → ¬ fpArises s s.sprs.srr1 →
    (s.tm.handleOnResume = true → msrTs s.sprs.srr1 ≠ tsT) →
    ∃ t, exec .rfid s = .next t ∧ returnedTo s t ∧ t.completed = false ∧
      msrTsTm t.msr = table2Result (msrTsTm s.msr) (msrTsTm s.sprs.srr1) ∧ rfidLoaded s t.msr ∧
      ieaOf s.sprs.srr0 t.msr t.nia

/-- hrfid that completes (R253): the MSR from HSRR1, HV and ME with it, `TS || TM` by Table 2; the next instruction at HSRR0; not traced. That it
is hypervisor privileged is log 18. -/
def Obligations.HrfidReturns : Prop :=
  ∀ s : State, s.hypervisorState = true → s.ts ≠ tsT → table2Allows (msrTsTm s.msr) (msrTsTm s.sprs.hsrr1) →
    ¬ pcrForbids s s.sprs.hsrr1 → ¬ fpArises s s.sprs.hsrr1 →
    (s.tm.handleOnResume = true → msrTs s.sprs.hsrr1 ≠ tsT) →
    ∃ t, exec .hrfid s = .next t ∧ returnedTo s t ∧ t.completed = false ∧
      msrTsTm t.msr = table2Result (msrTsTm s.msr) (msrTsTm s.sprs.hsrr1) ∧ hrfidLoaded s t.msr ∧
      ieaOf s.sprs.hsrr0 t.msr t.nia

/-- mtmsrd L=0 that completes (R254): the MSR from RS, but for bits 3, 51 and 63; `TS || TM` by Table 2; the next instruction follows. -/
def Obligations.MtmsrdLoads : Prop :=
  ∀ (rs : RegNum) (s : State), msrPr s.msr = false → s.ts ≠ tsT → table2Allows (msrTsTm s.msr) (msrTsTm (s.gpr rs)) →
    ¬ pcrForbids s (s.gpr rs) → ¬ fpArises s (s.gpr rs) →
    (s.tm.handleOnResume = true → msrTs (s.gpr rs) ≠ tsT) →
    ∃ t, exec (.mtmsrd rs false) s = .next t ∧ returnedTo s t ∧ t.completed = true ∧ t.nia = s.nia + 4 ∧
      msrTsTm t.msr = table2Result (msrTsTm s.msr) (msrTsTm (s.gpr rs)) ∧ mtmsrdLoaded rs s t.msr

/-- mtmsrd L=1 (R254): bits 48 and 62 of RS into the MSR; "The remaining bits of the MSR are unchanged." -/
def Obligations.MtmsrdOne : Prop :=
  ∀ (rs : RegNum) (s : State), msrPr s.msr = false → s.ts ≠ tsT →
    ∃ t, exec (.mtmsrd rs true) s = .next t ∧ bitsFrom [48, 62] (s.gpr rs) t.msr ∧ sameBitsBut [48, 62] s.msr t.msr ∧
      t = { s with msr := t.msr, nia := s.nia + 4, completed := true }

/-- rfid, hrfid and mtmsrd L=0 that ask for a transition Table 2 does not allow, or for problem state with an active transaction while TM is
disabled by the PCR: TM Bad Thing (R250, R256). -/
def Obligations.ReturnBadThing : Prop :=
  ∀ s : State, s.ts = tsN ∨ s.ts = tsS →
    (msrPr s.msr = false → ¬ table2Allows (msrTsTm s.msr) (msrTsTm s.sprs.srr1) ∨ pcrForbids s s.sprs.srr1 →
      exec .rfid s = .next s.tmBadThing) ∧
    (s.hypervisorState = true → ¬ table2Allows (msrTsTm s.msr) (msrTsTm s.sprs.hsrr1) ∨ pcrForbids s s.sprs.hsrr1 →
      exec .hrfid s = .next s.tmBadThing) ∧
    (msrPr s.msr = false → ∀ rs, ¬ table2Allows (msrTsTm s.msr) (msrTsTm (s.gpr rs)) ∨ pcrForbids s (s.gpr rs) →
      exec (.mtmsrd rs false) s = .next s.tmBadThing)

/-- rfid, hrfid or mtmsrd L=0 that resumes a transaction whose handling is owed: the failure handler runs at once, under the MSR that was loaded
(R180, R252 corner case a, R253, R254). -/
def Obligations.ReturnHandlesOwed : Prop :=
  ∀ (s : State) (c : Checkpoint), s.ts = tsS → s.tm.handleOnResume = true → s.tm.checkpoint = some c →
    (msrPr s.msr = false → msrTsTm s.sprs.srr1 = 0b101 → ¬ pcrForbids s s.sprs.srr1 → ¬ fpArises s s.sprs.srr1 →
      ∃ t m, exec .rfid s = .next t ∧ rfidLoaded s m ∧ msrTsTm m = 0b101 ∧ handledUnder c m s t ∧
        t.completed = false) ∧
    (s.hypervisorState = true → msrTsTm s.sprs.hsrr1 = 0b101 → ¬ pcrForbids s s.sprs.hsrr1 →
      ¬ fpArises s s.sprs.hsrr1 →
      ∃ t m, exec .hrfid s = .next t ∧ hrfidLoaded s m ∧ msrTsTm m = 0b101 ∧ handledUnder c m s t ∧
        t.completed = false) ∧
    (∀ rs, msrPr s.msr = false → msrTsTm (s.gpr rs) = 0b101 → ¬ pcrForbids s (s.gpr rs) → ¬ fpArises s (s.gpr rs) →
      ∃ t m, exec (.mtmsrd rs false) s = .next t ∧ mtmsrdLoaded rs s m ∧ msrTsTm m = 0b101 ∧ handledUnder c m s t ∧
        t.completed = true)

/-! ### Power-saving instructions, privilege, disallowed instructions -/

/-- doze, nap, sleep and rvwinkle in hypervisor state and Non-transactional state: the thread is placed into the level (R270 to R274). That the
instruction is not traced (`completed := false`) is the model's choice (log 46; R270 calls it moot). -/
def Obligations.PowerSavingEntered : Prop :=
  ∀ s : State, s.hypervisorState = true → s.ts = tsN →
    exec .doze s = .next { s with power := .doze, nia := s.nia + 4, completed := false } ∧
    exec .nap s = .next { s with power := .nap, nia := s.nia + 4, completed := false } ∧
    exec .sleep s = .next { s with power := .sleep, nia := s.nia + 4, completed := false } ∧
    exec .rvwinkle s = .next { s with power := .rvwinkle, nia := s.nia + 4, completed := false }

/-- A power-saving level goes on while no enabled interrupt is pending, and ends with one (R270, R331). Unless that is a System Reset, a
Machine Check or a Hypervisor Maintenance interrupt, for which state may be lost: after doze everything is kept but what interrupt entry
writes; after nap the Decrementer and the hypervisor resources of Figure 1 are; after sleep and rvwinkle the HRMOR is (R271 to R274). That
External and Decrementer need MSR.EE is log 38; that other state is lost, and the control bits without a register are not lost by nap, log
30; that interrupt entry writes no register but the two save registers, log 37. -/
def Obligations.PowerSavingLeft : Prop :=
  ∀ s t : State, s.power ≠ .running → s.powerSavingStep = t →
    (s.nextInterrupt = none → t = { s with completed := false }) ∧
    (∀ i, s.nextInterrupt = some i →
      (t.power = .running ∧ t.pendingInterrupts = s.pendingInterrupts.erase i ∧ t.mem = s.mem ∧ t.pages = s.pages ∧
        t.tm = s.tm ∧ (s.ts = tsN → t.ts = tsN)) ∧
      (i ≠ .systemReset → i ≠ .machineCheck → i ≠ .hypervisorMaintenance →
        t.sprs.hrmor = s.sprs.hrmor ∧
        (s.power = .doze → t = { s with
          power := .running, pendingInterrupts := t.pendingInterrupts, msr := t.msr, nia := t.nia, draws := t.draws
          completed := false
          sprs := { s.sprs with
            srr0 := t.sprs.srr0, srr1 := t.sprs.srr1, hsrr0 := t.sprs.hsrr0, hsrr1 := t.sprs.hsrr1 } }) ∧
        (s.power = .nap → t.controls = s.controls ∧ t.sprs = { t.sprs with
          dec := s.sprs.dec, sdr1 := s.sprs.sdr1, tb := s.sprs.tb, ear := s.sprs.ear, hsprg0 := s.sprs.hsprg0
          hsprg1 := s.sprs.hsprg1, hdsisr := s.sprs.hdsisr, hdar := s.sprs.hdar, spurr := s.sprs.spurr
          purr := s.sprs.purr, hdec := s.sprs.hdec, rmor := s.sprs.rmor, hrmor := s.sprs.hrmor, lpcr := s.sprs.lpcr
          lpidr := s.sprs.lpidr, hmer := s.sprs.hmer, hmeer := s.sprs.hmeer, pcr := s.sprs.pcr, heir := s.sprs.heir
          amor := s.sprs.amor, dabr := s.sprs.dabr, dabrx := s.sprs.dabrx } ∧
          (s.usesHsrr i.kind = false → t.sprs.hsrr0 = s.sprs.hsrr0 ∧ t.sprs.hsrr1 = s.sprs.hsrr1))))

/-- A privileged instruction in problem state, or a hypervisor privileged one outside hypervisor state, raises Privileged Instruction, before
every other check (R287, R311, R320). -/
def Obligations.PrivilegedInstructions : Prop :=
  ∀ s : State,
    (msrPr s.msr = true →
      (∀ ra, exec (.treclaim ra) s = .next s.privilegedInstruction) ∧ exec .trechkpt s = .next s.privilegedInstruction ∧
      exec .rfid s = .next s.privilegedInstruction ∧
      (∀ rs l, exec (.mtmsrd rs l) s = .next s.privilegedInstruction)) ∧
    (s.hypervisorState = false →
      exec .hrfid s = .next s.privilegedInstruction ∧ exec .doze s = .next s.privilegedInstruction ∧
      exec .nap s = .next s.privilegedInstruction ∧ exec .sleep s = .next s.privilegedInstruction ∧
      exec .rvwinkle s = .next s.privilegedInstruction) ∧
    (∀ n reg level, mtsprRow n = some (reg, level) → s.mayRun level = false →
      ∀ rs, exec (.mtspr n rs) s = .next s.privilegedInstruction) ∧
    (∀ n reg level, mfsprRow n = some (reg, level) → s.mayRun level = false →
      ∀ rt, exec (.mfspr rt n) s = .next s.privilegedInstruction)

/-- The instructions of the table that are disallowed in Transactional state fail the transaction with cause 0x01800000; they are not executed
and not traced (R162, R255, R270). -/
def Obligations.DisallowedInTransactional : Prop :=
  ∀ (i : Instr) (s : State) (c : Checkpoint), s.ts = tsT → s.tm.checkpoint = some c →
    ((i = .rfid ∨ ∃ rs l, i = .mtmsrd rs l) ∧ msrPr s.msr = false ∨
      (i = .hrfid ∨ i = .doze ∨ i = .nap ∨ i = .sleep ∨ i = .rvwinkle) ∧ s.hypervisorState = true) →
    ∃ t, exec i s = .next t ∧ recordedIn 0x01800000 s.nia s t ∧ handledTo c s t ∧ t.completed = false

/-- The availability of the facility (R201, R295, R296): a TM instruction, or an access of SPR 128 to 131, outside hypervisor state with
HFSCR.TM = 0 raises Hypervisor Facility Unavailable; else with MSR.TM = 0, Facility Unavailable. (In problem state with TM disabled by the PCR
it is refused: D11, log 15.) -/
def Obligations.FacilityUnavailable : Prop :=
  ∀ (i : Instr) (s : State), (i.isTm = true ∨ ∃ n r, 128 ≤ n ∧ n ≤ 131 ∧ (i = .mfspr r n ∨ i = .mtspr n r)) →
    ((∃ ra, i = .treclaim ra) ∨ i = .trechkpt → msrPr s.msr = false) →
    (msrPr s.msr = true ∧ s.tmDisabledByPcr = true → exec i s = .refused .tmDisabledByPcr) ∧
    (¬ (msrPr s.msr = true ∧ s.tmDisabledByPcr = true) →
      (s.hypervisorState = false → s.controls.hfscrTm = false → exec i s = .next s.hypervisorFacilityUnavailable) ∧
      (s.hypervisorState = true ∨ s.controls.hfscrTm = true → msrTm s.msr = false →
        exec i s = .next s.facilityUnavailable))

/-! ### Interrupts -/

/-- Interrupt entry (R290, R291): the return address and the MSR image are saved, Transactional becomes Suspended, SF becomes 1, LE is copied from
HILE or LPCR.ILE, every MSR bit but SF, HV, TS, ME, RI and LE becomes 0 (TM, SE, PR, EE, IR, DR, FE0, FE1, BE, FP, PMM, VEC, VSX and the
reserved bits), and nothing of the transaction, of its registers, of storage or of the reservation changes. The places of SE and of TS and TM
are the source's, those of the others PRESUMED (log 6), which save registers an interrupt uses log 17 and 37. -/
def Obligations.InterruptEntry : Prop :=
  ∀ (s : State) (k : InterruptKind) (address status : Word),
    let t := s.takeInterrupt k address status
    msrTs t.msr = (if s.ts = tsT then tsS else s.ts) ∧
    (∀ j, j ∉ [0, 3, 29, 30, 51, 62, 63] → bit t.msr j = false) ∧ msrSf t.msr = true ∧
    msrLe t.msr = (if msrHv t.msr then s.controls.hile else s.controls.lpcrIle) ∧
    (s.usesHsrr k = false → t.sprs = { s.sprs with srr0 := address, srr1 := t.sprs.srr1 } ∧
      ∀ j, bit t.sprs.srr1 j =
        if (33 ≤ j ∧ j ≤ 36) ∨ (42 ≤ j ∧ j ≤ 47) then bit status j else bit s.msr j) ∧
    (s.usesHsrr k = true → t.sprs = { s.sprs with hsrr0 := address, hsrr1 := t.sprs.hsrr1 } ∧
      ∀ j, bit t.sprs.hsrr1 j =
        if (33 ≤ j ∧ j ≤ 36) ∨ (42 ≤ j ∧ j ≤ 47) then bit status j else bit s.msr j) ∧
    t = { s with msr := t.msr, nia := t.nia, sprs := t.sprs, completed := false }

/-- Figure 3 (R290): the bits HV, ME and RI that each interrupt leaves, ME after a System Reset out of power-saving mode among them. The places of
these bits are PRESUMED (log 6); the rows of the two Facility Unavailable interrupts are the spec's decision D18 (log 17), that of Hypervisor Data
Segment is the model's (log 53). -/
def Obligations.Figure3Bits : Prop :=
  ∀ s : State,
    (∀ k, k = .machineCheck ∨ k = .systemReset → msrHv (s.interruptMsr k) = true ∧ msrRi (s.interruptMsr k) = false ∧
      (k = .machineCheck → msrMe (s.interruptMsr k) = false) ∧
      (k = .systemReset → s.power = .running → msrMe (s.interruptMsr k) = msrMe s.msr) ∧
      (k = .systemReset → s.power ≠ .running → msrMe (s.interruptMsr k) = true)) ∧
    (∀ k, k = .hypervisorDecrementer ∨ k = .hypervisorDataStorage ∨ k = .hypervisorInstructionStorage ∨
        k = .hypervisorEmulationAssistance ∨ k = .hypervisorMaintenance ∨ k = .hypervisorFacilityUnavailable ∨
        k = .hypervisorDataSegment →
      msrHv (s.interruptMsr k) = true ∧ msrRi (s.interruptMsr k) = msrRi s.msr ∧
      msrMe (s.interruptMsr k) = msrMe s.msr) ∧
    (∀ k, k = .dataStorage ∨ k = .dataSegment ∨ k = .instructionStorage ∨ k = .instructionSegment ∨ k = .alignment ∨
        k = .program ∨ k = .fpUnavailable ∨ k = .decrementer ∨ k = .trace ∨ k = .performanceMonitor ∨
        k = .vectorUnavailable ∨ k = .vsxUnavailable ∨ k = .facilityUnavailable →
      msrHv (s.interruptMsr k) = (!s.controls.lpes1 || msrHv s.msr) ∧ msrRi (s.interruptMsr k) = false ∧
      msrMe (s.interruptMsr k) = msrMe s.msr) ∧
    (msrHv (s.interruptMsr .external) = (!s.controls.lpes0 || msrHv s.msr) ∧
      msrRi (s.interruptMsr .external) = (!s.controls.lpes0 && msrRi s.msr) ∧
      msrMe (s.interruptMsr .external) = msrMe s.msr) ∧
    (∀ lev, msrHv (s.interruptMsr (.systemCall lev)) = (lev || !s.controls.lpes1 || msrHv s.msr) ∧
      msrRi (s.interruptMsr (.systemCall lev)) = false ∧ msrMe (s.interruptMsr (.systemCall lev)) = msrMe s.msr)

/-- The Program interrupts (R285). TM Bad Thing and Privileged Instruction: SRR0 is the address of the instruction, SRR1 has exactly bit 42,
respectively 45, of bits 42 to 47, zeros in 33 to 36, and the MSR in every other bit. Floating-Point Enabled, where rfid, hrfid or mtmsrd L=0
changes FE0 and FE1 from 0b00 and so enables a pending exception (R252 to R254): SRR0 is the next instruction's address, SRR1 has bits 43 and 47
and the MSR that was loaded, and a transaction that would resume is suspended. That the pending condition stands beside the FPSCR, and that the
address is the failure handler's where handling is owed on the resume, is log 51 (DESIGN CHOICE). -/
def Obligations.ProgramInterruptStatus : Prop :=
  ∀ s : State,
    (s.tmBadThing.sprs.srr0 = s.nia ∧ s.privilegedInstruction.sprs.srr0 = s.nia ∧
      (∀ j, bit s.tmBadThing.sprs.srr1 j =
        if (33 ≤ j ∧ j ≤ 36) ∨ (42 ≤ j ∧ j ≤ 47) then decide (j = 42) else bit s.msr j) ∧
      (∀ j, bit s.privilegedInstruction.sprs.srr1 j =
        if (33 ≤ j ∧ j ≤ 36) ∨ (42 ≤ j ∧ j ≤ 47) then decide (j = 45) else bit s.msr j)) ∧
    (msrPr s.msr = false → s.ts ≠ tsT → table2Allows (msrTsTm s.msr) (msrTsTm s.sprs.srr1) →
      ¬ pcrForbids s s.sprs.srr1 → fpArises s s.sprs.srr1 →
      ∃ t m a, exec .rfid s = .next t ∧ rfidLoaded s m ∧ ieaOf s.sprs.srr0 m a ∧ fpReported m (nextUnder s m a) t ∧
        msrTsTm m = table2Result (msrTsTm s.msr) (msrTsTm s.sprs.srr1) ∧ t.ts = s.ts ∧ t.tm = s.tm ∧ t.mem = s.mem) ∧
    (s.hypervisorState = true → s.ts ≠ tsT → table2Allows (msrTsTm s.msr) (msrTsTm s.sprs.hsrr1) →
      ¬ pcrForbids s s.sprs.hsrr1 → fpArises s s.sprs.hsrr1 →
      ∃ t m a, exec .hrfid s = .next t ∧ hrfidLoaded s m ∧ ieaOf s.sprs.hsrr0 m a ∧ fpReported m (nextUnder s m a) t ∧
        msrTsTm m = table2Result (msrTsTm s.msr) (msrTsTm s.sprs.hsrr1) ∧ t.ts = s.ts ∧ t.tm = s.tm ∧ t.mem = s.mem) ∧
    (∀ rs, msrPr s.msr = false → s.ts ≠ tsT → table2Allows (msrTsTm s.msr) (msrTsTm (s.gpr rs)) →
      ¬ pcrForbids s (s.gpr rs) → fpArises s (s.gpr rs) →
      ∃ t m, exec (.mtmsrd rs false) s = .next t ∧ mtmsrdLoaded rs s m ∧ fpReported m (nextUnder s m (s.nia + 4)) t ∧
        msrTsTm m = table2Result (msrTsTm s.msr) (msrTsTm (s.gpr rs)) ∧ t.ts = s.ts ∧ t.tm = s.tm ∧ t.mem = s.mem)

/-- The Trace interrupt (R300, R301): after an instruction that started with SE = 1 and completed, SRR0 is the address of the instruction that
would come next, and control goes to 0xD00; without completion there is none. A Floating-Point Enabled Exception that is due has the higher
priority (R300, R323) and is reported in its place, with SRR1 bit 47 only where `MSR[FE0 FE1]` is 0b01 or 0b10 (R285; the address saved is
log 51). -/
def Obligations.TraceInterrupt : Prop :=
  ∀ t : State,
    (t.completed = true → t.fpDue = true → ∃ u, traceAfter true (.next t) = .next u ∧ u.sprs.srr0 = t.nia ∧
      (∀ j, bit u.sprs.srr1 j =
        if (33 ≤ j ∧ j ≤ 36) ∨ (42 ≤ j ∧ j ≤ 47) then decide (j = 43 ∨ j = 47 ∧ msrFe t.msr ≠ 0b11) else bit t.msr j) ∧
      u.ts = (if t.ts = tsT then tsS else t.ts) ∧ u.tm = t.tm ∧ u.mem = t.mem ∧ u.regs = t.regs) ∧
    (t.completed = true → t.fpDue = false → ∃ u, traceAfter true (.next t) = .next u ∧ u.sprs.srr0 = t.nia ∧ u.nia = 0xD00 ∧
      u.ts = (if t.ts = tsT then tsS else t.ts) ∧ u.tm = t.tm ∧ u.mem = t.mem ∧ u.regs = t.regs) ∧
    (t.completed = false → traceAfter true (.next t) = .next t) ∧ traceAfter false (.next t) = .next t

/-! ### Storage around a transaction -/

/-- A Store in Transactional state, of any registers and size that does not overlap itself (R82): storage as others see it is unchanged; the
bytes stored are held as speculative updates and join the write set; no other speculative byte changes; Reference and Change bits of its pages
may be set (R105). -/
def Obligations.StoreTransactional : Prop :=
  ∀ (ea : Word) (parts : List StorePart) (updates : List RegWrite) (s : State), s.ts = tsT → storeSize parts ≤ 2 ^ 32 →
    accessClear s true (s.operandAddresses ea (storeSize parts)) → s.tm.updatesDiscarded = false →
    ∃ t, execBaseInstr (.store ea parts updates) s = .next t ∧
      (∀ c, c ∈ s.storedCells ea parts → cellAt t.tm.txData c.1 = some c.2) ∧
      (∀ a, a ∉ s.operandAddresses ea (storeSize parts) → cellAt t.tm.txData a = cellAt s.tm.txData a) ∧
      t.tm = { s.tm with
        txData := t.tm.txData
        writeSet := s.tm.writeSet ++ (s.operandAddresses ea (storeSize parts)).map fun a => ⟨a, s.nia⟩ } ∧
      accessMarked true (s.operandAddresses ea (storeSize parts)) s t ∧
      t = { s with
        tm := t.tm, nia := s.nia + 4, completed := true, pages := t.pages, storageLog := t.storageLog
        draws := t.draws, regs := (s.writeRegs updates).regs, cr := (s.writeRegs updates).cr
        xer := (s.writeRegs updates).xer }

/-- A transaction's load after its own store of a byte, halfword, word or doubleword returns the datum stored, until failure (R81 d). That
the load leaves zeros in the upper bits of RT is the form chosen: the extension is the base instruction's (R81, log 39). -/
def Obligations.LoadSeesOwnStore : Prop :=
  ∀ (rs rt : RegNum) (ea : Word) (size : AccessSize) (s t u : State), s.ts = tsT → s.tm.tdoomed = false →
    s.tm.updatesDiscarded = false → accessClear s true (s.operandAddresses ea size.bytes) →
    accessClear s false (s.operandAddresses ea size.bytes) →
    (∀ l, l ∈ s.tm.latent → l.certain = false) →
    execBaseInstr (.storeGpr rs ea size.bytes) s = .next t → execBaseInstr (.loadGpr rt ea size.bytes) t = .next u →
    (u.gpr rt).toNat = (s.gpr rs).toNat % 2 ^ (8 * size.bytes)

/-- A load in Transactional state (R81), of any registers and size: its addresses join the read set of a normal transaction and not that of a
ROT, and the loads a tcheck waits for where R221 says so; storage does not change, and of the failure causes one changes only where a conflicting
store has overwritten what it shows (R54). The registers are those with the bytes loaded placed in them and the updates made; which bytes go
where is data of the instruction (log 39). Each byte loaded is the transaction's own, if it stored one, or storage's: the first before failure,
the second once the updates are discarded. That a doomed transaction's load may mix the two is DESIGN CHOICE, log 59. A load of at most 8 bytes
into one General Purpose Register changes no other register and holds their number; that it zero-extends is the form chosen (log 39). -/
def Obligations.LoadTransactional : Prop :=
  ∀ (ea : Word) (n : Nat) (parts : List LoadPart) (updates : List RegWrite) (s : State), s.ts = tsT →
    accessClear s false (s.operandAddresses ea n) →
    ∃ (t : State) (bytes : List Byte), execBaseInstr (.load ea n parts updates) s = .next t ∧
      bytes.length = n ∧
      (∀ x, x ∈ bytes.zip (s.operandAddresses ea n) → x.1 = seenByte s x.2 ∨ x.1 = s.mem.read x.2) ∧
      (s.tm.tdoomed = false → s.tm.updatesDiscarded = false → (∀ l, l ∈ s.tm.latent → l.certain = false) →
        bytes = (s.operandAddresses ea n).map (seenByte s)) ∧
      (s.tm.updatesDiscarded = true → bytes = (s.operandAddresses ea n).map s.mem.read) ∧
      causesOnly { s.tm with
        readSet := if s.rot then s.tm.readSet
          else s.tm.readSet ++ (s.operandAddresses ea n).map fun a => ⟨a, s.nia⟩
        rotReads := if s.rot then s.tm.rotReads ++ (s.operandAddresses ea n).map fun a => ⟨a, s.nia⟩ else s.tm.rotReads
        awaited := t.tm.awaited } t.tm ∧
      (s.rot = false ∨ (∃ f, f ∈ s.tm.writeSet ∧ f.addr ∈ s.operandAddresses ea n) →
        t.tm.awaited = s.tm.awaited ++ s.operandAddresses ea n) ∧
      (s.rot = true → (∀ f, f ∈ s.tm.writeSet → f.addr ∉ s.operandAddresses ea n) → t.tm.awaited = s.tm.awaited) ∧
      (s.tm.tdoomed = true → t.tm.tdoomed = true) ∧
      ((∀ l, l ∈ s.tm.latent → l.certain = false) →
        t.tm.tdoomed = s.tm.tdoomed ∧ t.tm.pending = s.tm.pending ∧ t.tm.latent = s.tm.latent) ∧
      accessMarked false (s.operandAddresses ea n) s t ∧
      t = { s with
        tm := t.tm, regs := ((s.place bytes parts).writeRegs updates).regs
        cr := ((s.place bytes parts).writeRegs updates).cr, xer := ((s.place bytes parts).writeRegs updates).xer
        nia := s.nia + 4, completed := true, pages := t.pages, storageLog := t.storageLog, draws := t.draws } ∧
      (updates = [] → t.cr = s.cr ∧ t.xer = s.xer) ∧
      (∀ rt, n ≤ 8 → .load ea n parts updates = BaseInstr.loadGpr rt ea n →
        t.regs = { s.regs with gpr := t.regs.gpr } ∧ (∀ q, q ≠ rt → t.gpr q = s.gpr q) ∧
        (t.gpr rt).toNat = numberOf (storageOrder s.byteOrder bytes))

/-- A store in Suspended state takes effect at once; where it hits a location the transaction loaded, the transaction fails before it could
commit (R84, R90, R166; when that is detected is log 28), and where it shares no block with an access of it no cause of failure changes; no
address outside the operand changes. That the transaction's own older stores of its bytes, and no others, are superseded, so that its later loads
and its commit find the newer bytes, is the model's deduction from the sequential execution model of R86, no rule's words (DEDUCED, log 42). -/
def Obligations.StoreSuspended : Prop :=
  ∀ (ea : Word) (parts : List StorePart) (updates : List RegWrite) (s : State), s.ts = tsS →
    accessClear s true (s.operandAddresses ea (storeSize parts)) →
    ∃ t, execBaseInstr (.store ea parts updates) s = .next t ∧
      (∀ a, a ∉ s.operandAddresses ea (storeSize parts) → t.mem.read a = s.mem.read a) ∧
      t.mem = s.mem.writeCells (s.storedCells ea parts) ∧
      ((∃ f, f ∈ s.tm.readSet ∧ f.addr ∈ s.operandAddresses ea (storeSize parts)) → t.tm.failing) ∧
      causesOnly { s.tm with txData := t.tm.txData } t.tm ∧ (s.tm.tdoomed = true → t.tm.tdoomed = true) ∧
      (∀ a, a ∈ s.operandAddresses ea (storeSize parts) → cellAt t.tm.txData a = none) ∧
      (∀ a, a ∉ s.operandAddresses ea (storeSize parts) → cellAt t.tm.txData a = cellAt s.tm.txData a) ∧
      (touches (s.tm.footprint ++ s.tm.speculated) (s.operandAddresses ea (storeSize parts)) = false →
        t.tm = { s.tm with txData := t.tm.txData }) ∧
      accessMarked true (s.operandAddresses ea (storeSize parts)) s t ∧
      t = { s with
        mem := t.mem, tm := t.tm, nia := s.nia + 4, completed := true, pages := t.pages, storageLog := t.storageLog
        draws := t.draws, regs := (s.writeRegs updates).regs, cr := (s.writeRegs updates).cr
        xer := (s.writeRegs updates).xer }

/-- A Store Conditional with only one of the pair executed in Suspended state, one in Suspended state with a reservation established in
Transactional state among them: the store is not performed and the reservation is lost (R100 item 4 c, R101); the Reference and Change bits of its
page may be set (R105). The value left in CR0 is PRESUMED, and that it meets no storage exception and no disallowed type of its page, whatever the
page, is the model's DESIGN CHOICE (log 40). -/
def Obligations.StoreConditionalSuspended : Prop :=
  ∀ (rs : RegNum) (ea : Word) (size : AccessSize) (s : State) (r : Reservation), s.reservation = some r →
    (s.ts = tsS ∧ r.state ≠ tsS ∨ s.ts ≠ tsS ∧ r.state = tsS) →
    ∃ t, execBaseInstr (.storeConditional rs ea size) s = .next t ∧ bit (crField t.cr 0) 2 = false ∧
      (∃ r c, (c = true → r = true) ∧ t.pages = marked (s.operandAddresses ea size.bytes) r c s.pages) ∧
      t = { s with
        cr := t.cr, reservation := none, nia := s.nia + 4, completed := true, pages := t.pages, draws := t.draws }

/-- A store of another processor, of any length, by ordinary code or by a transaction that does not alone fail, to a block the transaction
accessed makes it fail before it could commit, and so does such a load of a block the transaction wrote; where the other transaction alone
fails, this one goes on and the store is not performed; a tlbie for a page the transaction used makes it fail (R76, R77, R161; when a
failure is detected is log 28). -/
def Obligations.ExternalConflicts : Prop :=
  ∀ (s : State) (f : Foot), s.ts ≠ tsN → s.ts ≠ 0b11 →
    (f ∈ s.tm.footprint → ∀ (who : OtherAgent) (a : Word) (bytes : List Byte),
      (∃ x, x ∈ addressesFrom a bytes.length ∧ x / Config.blockSize = f.addr / Config.blockSize) →
      (who ≠ .transaction .theirs → (s.applyExternal (.store who a bytes)).tm.failing) ∧
      (who = .nonTransactional ∨ who = .transaction .ours →
        (s.applyExternal (.store who a bytes)).mem = s.mem.writeCells ((addressesFrom a bytes.length).zip bytes)) ∧
      (who = .transaction .both → (s.applyExternal (.store who a bytes)).mem = s.mem) ∧
      (who = .transaction .theirs → s.applyExternal (.store who a bytes) = s)) ∧
    (f ∈ s.tm.writeSet → ∀ (who : OtherAgent) (a : Word) (n : Nat),
      (∃ x, x ∈ addressesFrom a n ∧ x / Config.blockSize = f.addr / Config.blockSize) →
      (who ≠ .transaction .theirs → (s.applyExternal (.load who a n)).tm.failing) ∧
      (s.applyExternal (.load who a n)).mem = s.mem) ∧
    (f ∈ s.tm.footprint → ∀ base size : Nat, base ≤ f.addr → f.addr < base + size →
      (s.applyExternal (.tlbie base size)).tm.failing)
end

