-- ==== Sys2Proof/Laws/Bits.lean ====
section
/-!
SUPPORT. Laws of the bit-field operations: which bits a write changes and which it leaves.
-/

namespace Sys2Proof.Machine

theorem putField_getLsbD {w : Nat} (x : BitVec w) (lo len : Nat) (v : BitVec len) (k : Nat) (hk : k < w) :
    (putField x lo len v).getLsbD k =
      if lo ≤ k ∧ k < lo + len then v.getLsbD (k - lo) else x.getLsbD k := by
  simp only [putField, BitVec.getLsbD_or, BitVec.getLsbD_and, BitVec.getLsbD_not, BitVec.getLsbD_shiftLeft,
    BitVec.getLsbD_setWidth, BitVec.getLsbD_allOnes, hk, decide_true, Bool.true_and]
  by_cases h1 : lo ≤ k
  · by_cases h2 : k < lo + len
    · have : k - lo < len := by omega
      have h3 : k - lo < w := by omega
      have h4 : ¬ k < lo := by omega
      simp [h2, this, h3, h4]
    · have : ¬ k - lo < len := by omega
      simp [h2, this, BitVec.getLsbD_of_ge v (k - lo) (by omega)]
  · have h2 : k < lo := by omega
    simp [h1, h2]

theorem select_getLsbD {w : Nat} (mask new old : BitVec w) (k : Nat) (hk : k < w) :
    (select mask new old).getLsbD k = if mask.getLsbD k then new.getLsbD k else old.getLsbD k := by
  simp only [select, BitVec.getLsbD_or, BitVec.getLsbD_and, BitVec.getLsbD_not, hk, decide_true, Bool.true_and]
  cases mask.getLsbD k <;> simp

theorem bit_eq_getLsbD {w : Nat} (x : BitVec w) (i : Nat) (h : i < w) : bit x i = x.getLsbD (w - 1 - i) := by
  simp [bit, BitVec.getMsbD, h]

theorem bit_of_ge {w : Nat} (x : BitVec w) (i : Nat) (h : w ≤ i) : bit x i = false := by
  simp [bit, BitVec.getMsbD, Nat.not_lt.mpr h]

/-- Two words are equal if all their bits are, in the spec's numbering. -/
theorem eq_of_bit_eq {w : Nat} {x y : BitVec w} (h : ∀ k, k < w → bit x k = bit y k) : x = y :=
  BitVec.eq_of_getMsbD_eq fun i hi => h i hi

/-- A field write seen bit by bit: the field's bits come from the value. -/
theorem bit_putField {w : Nat} (x : BitVec w) (lo len : Nat) (v : BitVec len) (k : Nat) (hk : k < w) :
    bit (putField x lo len v) k =
      if lo ≤ w - 1 - k ∧ w - 1 - k < lo + len then v.getLsbD (w - 1 - k - lo) else bit x k := by
  rw [bit_eq_getLsbD _ _ hk, bit_eq_getLsbD _ _ hk, putField_getLsbD _ _ _ _ _ (by omega)]

/-- Writing one bit changes that bit only. -/
theorem bit_putBit (x : Word) (i k : Nat) (b : Bool) (hi : i < 64) (hk : k < 64) :
    bit (putBit x i b) k = if k = i then b else bit x k := by
  rw [putBit, bit_putField _ _ _ _ _ hk]
  by_cases h : k = i
  · subst h
    have h1 : 63 - k ≤ 64 - 1 - k ∧ 64 - 1 - k < 63 - k + 1 := by omega
    have h2 : 64 - 1 - k - (63 - k) = 0 := by omega
    rw [if_pos h1, if_pos rfl, h2]
    cases b <;> rfl
  · rw [if_neg (by omega), if_neg h]

theorem bit_select {w : Nat} (mask new old : BitVec w) (k : Nat) (hk : k < w) :
    bit (select mask new old) k = if bit mask k then bit new k else bit old k := by
  simp only [bit_eq_getLsbD _ _ hk]
  exact select_getLsbD _ _ _ _ (by omega)

/-- A mask has ones in its range only. -/
theorem bit_maskRange (a b k : Nat) (hb : b < 64) (hk : k < 64) :
    bit (maskRange a b) k = (decide (a ≤ k) && decide (k ≤ b)) := by
  rw [bit_eq_getLsbD _ _ hk]
  simp only [maskRange, BitVec.getLsbD_and, BitVec.getLsbD_ushiftRight, BitVec.getLsbD_shiftLeft, BitVec.getLsbD_allOnes]
  rw [Bool.eq_iff_iff]
  simp only [Bool.and_eq_true, decide_eq_true_eq, Bool.not_eq_true']
  simp only [decide_eq_false_iff_not]
  omega

/-- The last bits of a word written as a field of the same place and length. -/
theorem extract_putField {w : Nat} (x : BitVec w) (lo len : Nat) (v : BitVec len) (h : lo + len ≤ w) :
    (putField x lo len v).extractLsb' lo len = v := by
  apply BitVec.eq_of_getLsbD_eq
  intro i hi
  rw [BitVec.getLsbD_extractLsb', putField_getLsbD _ _ _ _ _ (by omega)]
  have : lo ≤ lo + i ∧ lo + i < lo + len := by omega
  simp [hi]

/-- A field that does not meet the written one is unchanged. -/
theorem extract_putField_of_disjoint {w : Nat} (x : BitVec w) (lo len : Nat) (v : BitVec len) (a n : Nat)
    (hw : a + n ≤ w) (h : a + n ≤ lo ∨ lo + len ≤ a) :
    (putField x lo len v).extractLsb' a n = x.extractLsb' a n := by
  apply BitVec.eq_of_getLsbD_eq
  intro i hi
  rw [BitVec.getLsbD_extractLsb', BitVec.getLsbD_extractLsb', putField_getLsbD _ _ _ _ _ (by omega),
    if_neg (by omega)]

/-! ### The MSR -/

@[simp] theorem msrTs_putTs (m : Word) (ts : BitVec 2) : msrTs (putTs m ts) = ts :=
  extract_putField _ _ _ _ (by decide)

@[simp] theorem msrTsTm_putTsTm (m : Word) (v : BitVec 3) : msrTsTm (putTsTm m v) = v :=
  extract_putField _ _ _ _ (by decide)

theorem msrTs_eq (m : Word) : msrTs m = (msrTsTm m).extractLsb' 1 2 := by
  apply BitVec.eq_of_getLsbD_eq
  intro i hi
  simp only [msrTs, msrTsTm, BitVec.getLsbD_extractLsb']
  have : 1 + i < 3 := by omega
  simp [hi, this]
  congr 1
  omega

@[simp] theorem msrTs_putTsTm (m : Word) (v : BitVec 3) : msrTs (putTsTm m v) = v.extractLsb' 1 2 := by
  rw [msrTs_eq, msrTsTm_putTsTm]

theorem msrTs_putBit (m : Word) (i : Nat) (b : Bool) (h : i < 29 ∨ 30 < i ∧ i < 64) : msrTs (putBit m i b) = msrTs m :=
  extract_putField_of_disjoint _ _ _ _ _ _ (by decide) (by omega)

theorem msrTsTm_putBit (m : Word) (i : Nat) (b : Bool) (h : i < 29 ∨ 31 < i ∧ i < 64) :
    msrTsTm (putBit m i b) = msrTsTm m :=
  extract_putField_of_disjoint _ _ _ _ _ _ (by decide) (by omega)

theorem bit_putTs (m : Word) (ts : BitVec 2) (k : Nat) (hk : k < 64) (h : k ≠ 29 ∧ k ≠ 30) :
    bit (putTs m ts) k = bit m k := by
  rw [putTs, bit_putField _ _ _ _ _ hk, if_neg (by omega)]

theorem bit_putTsTm (m : Word) (v : BitVec 3) (k : Nat) (hk : k < 64) (h : k < 29 ∨ 31 < k) :
    bit (putTsTm m v) k = bit m k := by
  rw [putTsTm, bit_putField _ _ _ _ _ hk, if_neg (by omega)]

theorem msrTm_eq (m : Word) : msrTm m = (msrTsTm m).getLsbD 0 := by
  simp [msrTm, msrTsTm, bit, BitVec.getMsbD]

theorem msrTm_putTs (m : Word) (ts : BitVec 2) : msrTm (putTs m ts) = msrTm m :=
  bit_putTs _ _ _ (by decide) (by decide)

@[simp] theorem putTs_putTs (m : Word) (x y : BitVec 2) : putTs (putTs m x) y = putTs m y := by
  apply eq_of_bit_eq
  intro k hk
  simp only [putTs, bit_putField _ _ _ _ _ hk]
  split <;> rfl

/-! ### TEXASR -/

@[simp] theorem texasrTl_putTl (x : Word) (tl : BitVec 12) : texasrTl (putTl x tl) = tl :=
  extract_putField _ _ _ _ (by decide)

theorem texasrTl_putBit (x : Word) (i : Nat) (b : Bool) (h : i < 52) : texasrTl (putBit x i b) = texasrTl x :=
  extract_putField_of_disjoint _ _ _ _ _ _ (by decide) (by omega)

theorem bit_putTl (x : Word) (tl : BitVec 12) (k : Nat) (hk : k < 52) : bit (putTl x tl) k = bit x k := by
  rw [putTl, bit_putField _ _ _ _ _ (by omega), if_neg (by omega)]

@[simp] theorem texasrFs_putTl (x : Word) (tl : BitVec 12) : texasrFs (putTl x tl) = texasrFs x :=
  bit_putTl _ _ _ (by decide)

@[simp] theorem texasrRot_putTl (x : Word) (tl : BitVec 12) : texasrRot (putTl x tl) = texasrRot x :=
  bit_putTl _ _ _ (by decide)

/-! ### CR fields and addresses -/

@[simp] theorem crField_putCrField (cr : Word32) (i : BitVec 3) (v : CrField) : crField (putCrField cr i v) i = v :=
  extract_putField _ _ _ _ (by have := i.isLt; omega)

theorem crField_putCrField_of_ne (cr : Word32) (i j : BitVec 3) (v : CrField) (h : j ≠ i) :
    crField (putCrField cr i v) j = crField cr j := by
  have hi := i.isLt
  have hj := j.isLt
  have hne : j.toNat ≠ i.toNat := fun e => h (BitVec.eq_of_toNat_eq e)
  exact extract_putField_of_disjoint _ _ _ _ _ _ (by omega) (by omega)

/-- The Condition Register is its eight fields. -/
theorem cr_eq_of_fields {x y : Word32} (h : ∀ i, crField x i = crField y i) : x = y := by
  apply BitVec.eq_of_getLsbD_eq
  intro k hk
  have hi : 7 - k / 4 < 8 := by omega
  have e := congrArg (fun f => BitVec.getLsbD f (k % 4)) (h (BitVec.ofNat 3 (7 - k / 4)))
  simp only [crField, BitVec.getLsbD_extractLsb', BitVec.toNat_ofNat] at e
  have h2 : 28 - 4 * ((7 - k / 4) % 2 ^ 3) + k % 4 = k := by omega
  have h3 : k % 4 < 4 := by omega
  simpa only [h2, h3, decide_true, Bool.true_and] using e

theorem wordAlign_getLsbD (a : Word) (k : Nat) (hk : k < 64) :
    (wordAlign a).getLsbD k = if k < 2 then false else a.getLsbD k := by
  have h3 : (3#64).getLsbD k = decide (k < 2) := by
    have : ∀ k : Fin 64, (3#64).getLsbD k.val = decide (k.val < 2) := by decide
    exact this ⟨k, hk⟩
  simp only [wordAlign, BitVec.getLsbD_and, BitVec.getLsbD_not, hk, h3]
  split <;> simp_all

@[simp] theorem wordAlign_wordAlign (a : Word) : wordAlign (wordAlign a) = wordAlign a := by
  apply BitVec.eq_of_getLsbD_eq
  intro k hk
  simp only [wordAlign_getLsbD _ _ hk]
  split <;> rfl

@[simp] theorem wordAlign_low32 (a : Word) : wordAlign (low32 (wordAlign a)) = low32 (wordAlign a) := by
  apply BitVec.eq_of_getLsbD_eq
  intro k hk
  rw [wordAlign_getLsbD _ _ hk]
  split
  · rename_i h
    simp [low32, wordAlign_getLsbD _ k hk, h]
  · rfl

theorem wordAlign_eq_iff (a : Word) : wordAlign a = a ↔ a.toNat % 4 = 0 := by
  constructor
  · intro h
    have h0 : a.getLsbD 0 = false := by rw [← h, wordAlign_getLsbD _ _ (by decide)]; rfl
    have h1 : a.getLsbD 1 = false := by rw [← h, wordAlign_getLsbD _ _ (by decide)]; rfl
    simp only [BitVec.getLsbD, Nat.testBit, Nat.shiftRight_zero, Nat.shiftRight_one, Nat.one_and_eq_mod_two] at h0 h1
    simp at h0 h1
    omega
  · intro h
    apply BitVec.eq_of_getLsbD_eq
    intro k hk
    rw [wordAlign_getLsbD _ _ hk]
    split
    · rename_i h2
      have : k = 0 ∨ k = 1 := by omega
      rcases this with rfl | rfl
      · simp only [BitVec.getLsbD, Nat.testBit, Nat.shiftRight_zero, Nat.one_and_eq_mod_two]; simp; omega
      · simp only [BitVec.getLsbD, Nat.testBit, Nat.shiftRight_one, Nat.one_and_eq_mod_two]; simp; omega
    · rfl

/-- The next sequential address of an aligned one is aligned. -/
theorem wordAlign_add_four {a : Word} (h : wordAlign a = a) : wordAlign (a + 4) = a + 4 := by
  rw [wordAlign_eq_iff] at *
  rw [BitVec.toNat_add]
  have : (4 : Word).toNat = 4 := rfl
  omega

end Sys2Proof.Machine
end

