-- ==== Sys2Proof/Laws/Memory.lean ====
section
/-!
SUPPORT. Laws of byte storage: a read after a write, and the canonical form.
-/

namespace Sys2Proof.Machine

theorem cellAt_cellPut (l : List Host.Cell) (a b : Nat) (v : Byte) :
    cellAt (cellPut l a v) b = if b = a then some v else cellAt l b := by
  induction l with
  | nil => simp [cellPut, cellAt]
  | cons c l ih =>
    obtain ⟨k, x⟩ := c
    simp only [cellPut]
    by_cases h1 : a = k
    · subst h1
      by_cases h : b = a <;> simp [cellAt, h]
    · rw [if_neg h1]
      by_cases h2 : a < k
      · by_cases h : b = a <;> simp [h2, cellAt, h]
      · by_cases h : b = a
        · subst h; simp [h2, cellAt, h1, ih]
        · simp [h2, cellAt, ih, h]

theorem cellAt_cellDrop (l : List Host.Cell) (a b : Nat) :
    cellAt (cellDrop l a) b = if b = a then none else cellAt l b := by
  induction l with
  | nil => simp [cellDrop, cellAt]
  | cons c l ih =>
    obtain ⟨k, x⟩ := c
    simp only [cellDrop, List.filter_cons] at *
    by_cases h1 : k = a
    · subst h1
      by_cases h : b = k
      · subst h; simpa using ih
      · simp [ih, cellAt, h]
    · have : ((k, x).1 != a) = true := by simpa using h1
      simp only [this, if_true, cellAt, ih]
      by_cases h : b = k
      · subst h; simp [h1]
      · simp [h]

/-- A byte written is the byte read; every other address is left alone. -/
theorem Memory.read_write (m : Memory) (a b : Nat) (v : Byte) :
    (m.write a v).read b = if b = a then v else m.read b := by
  unfold Memory.write Memory.read
  split
  · rename_i h
    simp only [cellAt_cellDrop]
    split <;> simp_all
  · simp only [cellAt_cellPut]
    split <;> simp_all

theorem mem_cellPut {l : List Host.Cell} {a : Nat} {v : Byte} {c : Host.Cell} (h : c ∈ cellPut l a v) :
    c = (a, v) ∨ c ∈ l := by
  induction l with
  | nil => simpa [cellPut] using h
  | cons d l ih =>
    obtain ⟨k, x⟩ := d
    simp only [cellPut] at h
    split at h
    · rcases List.mem_cons.mp h with rfl | h
      · exact .inl rfl
      · exact .inr (List.mem_cons_of_mem _ h)
    · split at h
      · rcases List.mem_cons.mp h with rfl | h
        · exact .inl rfl
        · exact .inr h
      · rcases List.mem_cons.mp h with rfl | h
        · exact .inr (List.mem_cons_self ..)
        · exact (ih h).imp id (List.mem_cons_of_mem _)

/-- Setting a byte keeps the addresses rising. -/
theorem cellsRise_cellPut {l : List Host.Cell} (h : cellsRise l) (a : Nat) (v : Byte) : cellsRise (cellPut l a v) := by
  induction l with
  | nil => simp [cellPut, cellsRise]
  | cons d l ih =>
    obtain ⟨k, x⟩ := d
    have h := List.pairwise_cons.mp h
    simp only [cellPut]
    split
    · rename_i e
      subst e
      exact List.pairwise_cons.mpr ⟨h.1, h.2⟩
    · split
      · rename_i hlt
        refine List.pairwise_cons.mpr ⟨?_, List.pairwise_cons.mpr h⟩
        intro y hy
        rcases List.mem_cons.mp hy with rfl | hy
        · exact hlt
        · exact Nat.lt_trans hlt (h.1 y hy)
      · refine List.pairwise_cons.mpr ⟨?_, ih h.2⟩
        intro y hy
        rcases mem_cellPut hy with rfl | hy
        · show k < a; omega
        · exact h.1 y hy

theorem cellsRise_foldl_cellPut (cs : List Host.Cell) {l : List Host.Cell} (h : cellsRise l) :
    cellsRise (cs.foldl (fun l c => cellPut l c.1 c.2) l) := by
  induction cs generalizing l with
  | nil => exact h
  | cons c cs ih => exact ih (cellsRise_cellPut h c.1 c.2)

theorem mem_foldl_cellPut {cs l : List Host.Cell} {c : Host.Cell}
    (h : c ∈ cs.foldl (fun l c => cellPut l c.1 c.2) l) : c ∈ cs ∨ c ∈ l := by
  induction cs generalizing l with
  | nil => exact .inr h
  | cons d cs ih =>
    rcases ih h with h | h
    · exact .inl (List.mem_cons_of_mem _ h)
    · rcases mem_cellPut h with rfl | h
      · exact .inl (List.mem_cons_self ..)
      · exact .inr h

/-- A write of an effective address keeps the canonical form. -/
theorem Memory.wf_write {m : Memory} (h : m.wf) {a : Nat} (ha : a < 2 ^ 64) (v : Byte) : (m.write a v).wf := by
  unfold Memory.write
  split
  · exact ⟨h.1.filter _, fun c hc => h.2 c (List.mem_of_mem_filter hc)⟩
  · rename_i hv
    refine ⟨cellsRise_cellPut h.1 a v, fun c hc => ?_⟩
    rcases mem_cellPut hc with rfl | hc
    · exact ⟨ha, hv⟩
    · exact h.2 c hc

/-- Writing a list of bytes at effective addresses keeps the canonical form. -/
theorem Memory.wf_writeCells {m : Memory} (h : m.wf) {cs : List Host.Cell} (hc : ∀ c ∈ cs, c.1 < 2 ^ 64) :
    (m.writeCells cs).wf := by
  induction cs generalizing m with
  | nil => exact h
  | cons c cs ih =>
    exact ih (Memory.wf_write h (hc c (List.mem_cons_self ..)) c.2) fun d hd => hc d (List.mem_cons_of_mem _ hd)

/-- An address no byte is written to reads as before. -/
theorem Memory.read_writeCells_of_not_mem (m : Memory) (cs : List Host.Cell) (a : Nat) (h : ∀ c ∈ cs, c.1 ≠ a) :
    (m.writeCells cs).read a = m.read a := by
  induction cs generalizing m with
  | nil => rfl
  | cons c cs ih =>
    show ((m.write c.1 c.2).writeCells cs).read a = m.read a
    rw [ih _ fun d hd => h d (List.mem_cons_of_mem _ hd), Memory.read_write,
      if_neg fun e => h c (List.mem_cons_self ..) e.symm]

theorem cellAt_of_not_mem {l : List Host.Cell} {a : Nat} (h : ∀ c ∈ l, c.1 ≠ a) : cellAt l a = none := by
  induction l with
  | nil => rfl
  | cons c l ih =>
    obtain ⟨k, x⟩ := c
    have hk : a ≠ k := fun e => h (k, x) (List.mem_cons_self ..) e.symm
    simp only [cellAt, if_neg hk]
    exact ih fun d hd => h d (List.mem_cons_of_mem _ hd)

/-- Writing a list whose addresses rise: a listed address reads as listed, another as before. -/
theorem Memory.read_writeCells_of_rise (m : Memory) {cs : List Host.Cell} (h : cellsRise cs) (a : Nat) :
    (m.writeCells cs).read a = (cellAt cs a).getD (m.read a) := by
  induction cs generalizing m with
  | nil => rfl
  | cons c cs ih =>
    obtain ⟨k, x⟩ := c
    have h := List.pairwise_cons.mp h
    show ((m.write k x).writeCells cs).read a = _
    rw [ih _ h.2, Memory.read_write]
    by_cases e : a = k
    · subst e
      have : cellAt cs a = none := cellAt_of_not_mem fun d hd => Nat.ne_of_gt (h.1 d hd)
      simp [this, cellAt]
    · simp [cellAt, e]

theorem State.reset_mem_wf : State.reset.mem.wf := by
  constructor
  · exact List.Pairwise.nil
  · intro c hc; cases hc

end Sys2Proof.Machine
end

