-- ==== Sys2Proof/Laws/State.lean ====
section
/-!
SUPPORT. Reading a field after an update of the state: one lemma for each field and update, each true by computation.
-/

namespace Sys2Proof.Machine

variable (s : State)

/-! ### `setGpr` -/

@[simp] theorem State.setGpr_cr (r : RegNum) (v : Word) : (s.setGpr r v).cr = s.cr := rfl
@[simp] theorem State.setGpr_xer (r : RegNum) (v : Word) : (s.setGpr r v).xer = s.xer := rfl
@[simp] theorem State.setGpr_msr (r : RegNum) (v : Word) : (s.setGpr r v).msr = s.msr := rfl
@[simp] theorem State.setGpr_nia (r : RegNum) (v : Word) : (s.setGpr r v).nia = s.nia := rfl
@[simp] theorem State.setGpr_sprs (r : RegNum) (v : Word) : (s.setGpr r v).sprs = s.sprs := rfl
@[simp] theorem State.setGpr_controls (r : RegNum) (v : Word) : (s.setGpr r v).controls = s.controls := rfl
@[simp] theorem State.setGpr_tm (r : RegNum) (v : Word) : (s.setGpr r v).tm = s.tm := rfl
@[simp] theorem State.setGpr_reservation (r : RegNum) (v : Word) : (s.setGpr r v).reservation = s.reservation := rfl
@[simp] theorem State.setGpr_power (r : RegNum) (v : Word) : (s.setGpr r v).power = s.power := rfl
@[simp] theorem State.setGpr_mem (r : RegNum) (v : Word) : (s.setGpr r v).mem = s.mem := rfl
@[simp] theorem State.setGpr_pages (r : RegNum) (v : Word) : (s.setGpr r v).pages = s.pages := rfl
@[simp] theorem State.setGpr_params (r : RegNum) (v : Word) : (s.setGpr r v).params = s.params := rfl
@[simp] theorem State.setGpr_storageLog (r : RegNum) (v : Word) : (s.setGpr r v).storageLog = s.storageLog := rfl
@[simp] theorem State.setGpr_pendingInterrupts (r : RegNum) (v : Word) : (s.setGpr r v).pendingInterrupts = s.pendingInterrupts :=
  rfl
@[simp] theorem State.setGpr_tape (r : RegNum) (v : Word) : (s.setGpr r v).tape = s.tape := rfl
@[simp] theorem State.setGpr_draws (r : RegNum) (v : Word) : (s.setGpr r v).draws = s.draws := rfl
@[simp] theorem State.setGpr_completed (r : RegNum) (v : Word) : (s.setGpr r v).completed = s.completed := rfl

/-! ### `setCr0` -/

@[simp] theorem State.setCr0_regs (v : CrField) : (s.setCr0 v).regs = s.regs := rfl
@[simp] theorem State.setCr0_cr (v : CrField) : (s.setCr0 v).cr = putCrField s.cr 0 v := rfl
@[simp] theorem State.setCr0_xer (v : CrField) : (s.setCr0 v).xer = s.xer := rfl
@[simp] theorem State.setCr0_msr (v : CrField) : (s.setCr0 v).msr = s.msr := rfl
@[simp] theorem State.setCr0_nia (v : CrField) : (s.setCr0 v).nia = s.nia := rfl
@[simp] theorem State.setCr0_sprs (v : CrField) : (s.setCr0 v).sprs = s.sprs := rfl
@[simp] theorem State.setCr0_controls (v : CrField) : (s.setCr0 v).controls = s.controls := rfl
@[simp] theorem State.setCr0_tm (v : CrField) : (s.setCr0 v).tm = s.tm := rfl
@[simp] theorem State.setCr0_reservation (v : CrField) : (s.setCr0 v).reservation = s.reservation := rfl
@[simp] theorem State.setCr0_power (v : CrField) : (s.setCr0 v).power = s.power := rfl
@[simp] theorem State.setCr0_mem (v : CrField) : (s.setCr0 v).mem = s.mem := rfl
@[simp] theorem State.setCr0_pages (v : CrField) : (s.setCr0 v).pages = s.pages := rfl
@[simp] theorem State.setCr0_params (v : CrField) : (s.setCr0 v).params = s.params := rfl
@[simp] theorem State.setCr0_storageLog (v : CrField) : (s.setCr0 v).storageLog = s.storageLog := rfl
@[simp] theorem State.setCr0_pendingInterrupts (v : CrField) : (s.setCr0 v).pendingInterrupts = s.pendingInterrupts := rfl
@[simp] theorem State.setCr0_tape (v : CrField) : (s.setCr0 v).tape = s.tape := rfl
@[simp] theorem State.setCr0_draws (v : CrField) : (s.setCr0 v).draws = s.draws := rfl
@[simp] theorem State.setCr0_completed (v : CrField) : (s.setCr0 v).completed = s.completed := rfl

/-! ### `setCr` -/

@[simp] theorem State.setCr_regs (i : BitVec 3) (v : CrField) : (s.setCr i v).regs = s.regs := rfl
@[simp] theorem State.setCr_cr (i : BitVec 3) (v : CrField) : (s.setCr i v).cr = putCrField s.cr i v := rfl
@[simp] theorem State.setCr_xer (i : BitVec 3) (v : CrField) : (s.setCr i v).xer = s.xer := rfl
@[simp] theorem State.setCr_msr (i : BitVec 3) (v : CrField) : (s.setCr i v).msr = s.msr := rfl
@[simp] theorem State.setCr_nia (i : BitVec 3) (v : CrField) : (s.setCr i v).nia = s.nia := rfl
@[simp] theorem State.setCr_sprs (i : BitVec 3) (v : CrField) : (s.setCr i v).sprs = s.sprs := rfl
@[simp] theorem State.setCr_controls (i : BitVec 3) (v : CrField) : (s.setCr i v).controls = s.controls := rfl
@[simp] theorem State.setCr_tm (i : BitVec 3) (v : CrField) : (s.setCr i v).tm = s.tm := rfl
@[simp] theorem State.setCr_reservation (i : BitVec 3) (v : CrField) : (s.setCr i v).reservation = s.reservation := rfl
@[simp] theorem State.setCr_power (i : BitVec 3) (v : CrField) : (s.setCr i v).power = s.power := rfl
@[simp] theorem State.setCr_mem (i : BitVec 3) (v : CrField) : (s.setCr i v).mem = s.mem := rfl
@[simp] theorem State.setCr_pages (i : BitVec 3) (v : CrField) : (s.setCr i v).pages = s.pages := rfl
@[simp] theorem State.setCr_params (i : BitVec 3) (v : CrField) : (s.setCr i v).params = s.params := rfl
@[simp] theorem State.setCr_storageLog (i : BitVec 3) (v : CrField) : (s.setCr i v).storageLog = s.storageLog := rfl
@[simp] theorem State.setCr_pendingInterrupts (i : BitVec 3) (v : CrField) : (s.setCr i v).pendingInterrupts = s.pendingInterrupts :=
  rfl
@[simp] theorem State.setCr_tape (i : BitVec 3) (v : CrField) : (s.setCr i v).tape = s.tape := rfl
@[simp] theorem State.setCr_draws (i : BitVec 3) (v : CrField) : (s.setCr i v).draws = s.draws := rfl
@[simp] theorem State.setCr_completed (i : BitVec 3) (v : CrField) : (s.setCr i v).completed = s.completed := rfl

/-! ### `setCr0State` -/

@[simp] theorem State.setCr0State_regs : (s.setCr0State).regs = s.regs := rfl
@[simp] theorem State.setCr0State_cr : (s.setCr0State).cr = putCrField s.cr 0 (stateField s.ts) := rfl
@[simp] theorem State.setCr0State_xer : (s.setCr0State).xer = s.xer := rfl
@[simp] theorem State.setCr0State_msr : (s.setCr0State).msr = s.msr := rfl
@[simp] theorem State.setCr0State_nia : (s.setCr0State).nia = s.nia := rfl
@[simp] theorem State.setCr0State_sprs : (s.setCr0State).sprs = s.sprs := rfl
@[simp] theorem State.setCr0State_controls : (s.setCr0State).controls = s.controls := rfl
@[simp] theorem State.setCr0State_tm : (s.setCr0State).tm = s.tm := rfl
@[simp] theorem State.setCr0State_reservation : (s.setCr0State).reservation = s.reservation := rfl
@[simp] theorem State.setCr0State_power : (s.setCr0State).power = s.power := rfl
@[simp] theorem State.setCr0State_mem : (s.setCr0State).mem = s.mem := rfl
@[simp] theorem State.setCr0State_pages : (s.setCr0State).pages = s.pages := rfl
@[simp] theorem State.setCr0State_params : (s.setCr0State).params = s.params := rfl
@[simp] theorem State.setCr0State_storageLog : (s.setCr0State).storageLog = s.storageLog := rfl
@[simp] theorem State.setCr0State_pendingInterrupts : (s.setCr0State).pendingInterrupts = s.pendingInterrupts := rfl
@[simp] theorem State.setCr0State_tape : (s.setCr0State).tape = s.tape := rfl
@[simp] theorem State.setCr0State_draws : (s.setCr0State).draws = s.draws := rfl
@[simp] theorem State.setCr0State_completed : (s.setCr0State).completed = s.completed := rfl

/-! ### `setTs` -/

@[simp] theorem State.setTs_regs (ts : BitVec 2) : (s.setTs ts).regs = s.regs := rfl
@[simp] theorem State.setTs_cr (ts : BitVec 2) : (s.setTs ts).cr = s.cr := rfl
@[simp] theorem State.setTs_xer (ts : BitVec 2) : (s.setTs ts).xer = s.xer := rfl
@[simp] theorem State.setTs_msr (ts : BitVec 2) : (s.setTs ts).msr = putTs s.msr ts := rfl
@[simp] theorem State.setTs_nia (ts : BitVec 2) : (s.setTs ts).nia = s.nia := rfl
@[simp] theorem State.setTs_sprs (ts : BitVec 2) : (s.setTs ts).sprs = s.sprs := rfl
@[simp] theorem State.setTs_controls (ts : BitVec 2) : (s.setTs ts).controls = s.controls := rfl
@[simp] theorem State.setTs_tm (ts : BitVec 2) : (s.setTs ts).tm = s.tm := rfl
@[simp] theorem State.setTs_reservation (ts : BitVec 2) : (s.setTs ts).reservation = s.reservation := rfl
@[simp] theorem State.setTs_power (ts : BitVec 2) : (s.setTs ts).power = s.power := rfl
@[simp] theorem State.setTs_mem (ts : BitVec 2) : (s.setTs ts).mem = s.mem := rfl
@[simp] theorem State.setTs_pages (ts : BitVec 2) : (s.setTs ts).pages = s.pages := rfl
@[simp] theorem State.setTs_params (ts : BitVec 2) : (s.setTs ts).params = s.params := rfl
@[simp] theorem State.setTs_storageLog (ts : BitVec 2) : (s.setTs ts).storageLog = s.storageLog := rfl
@[simp] theorem State.setTs_pendingInterrupts (ts : BitVec 2) : (s.setTs ts).pendingInterrupts = s.pendingInterrupts := rfl
@[simp] theorem State.setTs_tape (ts : BitVec 2) : (s.setTs ts).tape = s.tape := rfl
@[simp] theorem State.setTs_draws (ts : BitVec 2) : (s.setTs ts).draws = s.draws := rfl
@[simp] theorem State.setTs_completed (ts : BitVec 2) : (s.setTs ts).completed = s.completed := rfl

/-! ### `tick` -/

@[simp] theorem State.tick_regs : (s.tick).regs = s.regs := rfl
@[simp] theorem State.tick_cr : (s.tick).cr = s.cr := rfl
@[simp] theorem State.tick_xer : (s.tick).xer = s.xer := rfl
@[simp] theorem State.tick_msr : (s.tick).msr = s.msr := rfl
@[simp] theorem State.tick_nia : (s.tick).nia = s.nia := rfl
@[simp] theorem State.tick_sprs : (s.tick).sprs = s.sprs := rfl
@[simp] theorem State.tick_controls : (s.tick).controls = s.controls := rfl
@[simp] theorem State.tick_tm : (s.tick).tm = s.tm := rfl
@[simp] theorem State.tick_reservation : (s.tick).reservation = s.reservation := rfl
@[simp] theorem State.tick_power : (s.tick).power = s.power := rfl
@[simp] theorem State.tick_mem : (s.tick).mem = s.mem := rfl
@[simp] theorem State.tick_pages : (s.tick).pages = s.pages := rfl
@[simp] theorem State.tick_params : (s.tick).params = s.params := rfl
@[simp] theorem State.tick_storageLog : (s.tick).storageLog = s.storageLog := rfl
@[simp] theorem State.tick_pendingInterrupts : (s.tick).pendingInterrupts = s.pendingInterrupts := rfl
@[simp] theorem State.tick_tape : (s.tick).tape = s.tape := rfl
@[simp] theorem State.tick_draws : (s.tick).draws = s.draws + 1 := rfl
@[simp] theorem State.tick_completed : (s.tick).completed = s.completed := rfl
@[simp] theorem State.ticks_regs (n : Nat) : (s.ticks n).regs = s.regs := rfl
@[simp] theorem State.ticks_cr (n : Nat) : (s.ticks n).cr = s.cr := rfl
@[simp] theorem State.ticks_xer (n : Nat) : (s.ticks n).xer = s.xer := rfl
@[simp] theorem State.ticks_msr (n : Nat) : (s.ticks n).msr = s.msr := rfl
@[simp] theorem State.ticks_nia (n : Nat) : (s.ticks n).nia = s.nia := rfl
@[simp] theorem State.ticks_sprs (n : Nat) : (s.ticks n).sprs = s.sprs := rfl
@[simp] theorem State.ticks_controls (n : Nat) : (s.ticks n).controls = s.controls := rfl
@[simp] theorem State.ticks_tm (n : Nat) : (s.ticks n).tm = s.tm := rfl
@[simp] theorem State.ticks_reservation (n : Nat) : (s.ticks n).reservation = s.reservation := rfl
@[simp] theorem State.ticks_power (n : Nat) : (s.ticks n).power = s.power := rfl
@[simp] theorem State.ticks_mem (n : Nat) : (s.ticks n).mem = s.mem := rfl
@[simp] theorem State.ticks_pages (n : Nat) : (s.ticks n).pages = s.pages := rfl
@[simp] theorem State.ticks_params (n : Nat) : (s.ticks n).params = s.params := rfl
@[simp] theorem State.ticks_storageLog (n : Nat) : (s.ticks n).storageLog = s.storageLog := rfl
@[simp] theorem State.ticks_pendingInterrupts (n : Nat) : (s.ticks n).pendingInterrupts = s.pendingInterrupts := rfl
@[simp] theorem State.ticks_tape (n : Nat) : (s.ticks n).tape = s.tape := rfl
@[simp] theorem State.ticks_draws (n : Nat) : (s.ticks n).draws = s.draws + n := rfl
@[simp] theorem State.ticks_completed (n : Nat) : (s.ticks n).completed = s.completed := rfl

/-! ### `complete` -/

@[simp] theorem State.complete_regs : (s.complete).regs = s.regs := rfl
@[simp] theorem State.complete_cr : (s.complete).cr = s.cr := rfl
@[simp] theorem State.complete_xer : (s.complete).xer = s.xer := rfl
@[simp] theorem State.complete_msr : (s.complete).msr = s.msr := rfl
@[simp] theorem State.complete_nia : (s.complete).nia = s.nia + 4 := rfl
@[simp] theorem State.complete_sprs : (s.complete).sprs = s.sprs := rfl
@[simp] theorem State.complete_controls : (s.complete).controls = s.controls := rfl
@[simp] theorem State.complete_tm : (s.complete).tm = s.tm := rfl
@[simp] theorem State.complete_reservation : (s.complete).reservation = s.reservation := rfl
@[simp] theorem State.complete_power : (s.complete).power = s.power := rfl
@[simp] theorem State.complete_mem : (s.complete).mem = s.mem := rfl
@[simp] theorem State.complete_pages : (s.complete).pages = s.pages := rfl
@[simp] theorem State.complete_params : (s.complete).params = s.params := rfl
@[simp] theorem State.complete_storageLog : (s.complete).storageLog = s.storageLog := rfl
@[simp] theorem State.complete_pendingInterrupts : (s.complete).pendingInterrupts = s.pendingInterrupts := rfl
@[simp] theorem State.complete_tape : (s.complete).tape = s.tape := rfl
@[simp] theorem State.complete_draws : (s.complete).draws = s.draws := rfl
@[simp] theorem State.complete_completed : (s.complete).completed = true := rfl

/-! ### `log` -/

@[simp] theorem State.log_regs (e : StorageEvent) : (s.log e).regs = s.regs := rfl
@[simp] theorem State.log_cr (e : StorageEvent) : (s.log e).cr = s.cr := rfl
@[simp] theorem State.log_xer (e : StorageEvent) : (s.log e).xer = s.xer := rfl
@[simp] theorem State.log_msr (e : StorageEvent) : (s.log e).msr = s.msr := rfl
@[simp] theorem State.log_nia (e : StorageEvent) : (s.log e).nia = s.nia := rfl
@[simp] theorem State.log_sprs (e : StorageEvent) : (s.log e).sprs = s.sprs := rfl
@[simp] theorem State.log_controls (e : StorageEvent) : (s.log e).controls = s.controls := rfl
@[simp] theorem State.log_tm (e : StorageEvent) : (s.log e).tm = s.tm := rfl
@[simp] theorem State.log_reservation (e : StorageEvent) : (s.log e).reservation = s.reservation := rfl
@[simp] theorem State.log_power (e : StorageEvent) : (s.log e).power = s.power := rfl
@[simp] theorem State.log_mem (e : StorageEvent) : (s.log e).mem = s.mem := rfl
@[simp] theorem State.log_pages (e : StorageEvent) : (s.log e).pages = s.pages := rfl
@[simp] theorem State.log_params (e : StorageEvent) : (s.log e).params = s.params := rfl
@[simp] theorem State.log_storageLog (e : StorageEvent) : (s.log e).storageLog = s.storageLog ++ [e] := rfl
@[simp] theorem State.log_pendingInterrupts (e : StorageEvent) : (s.log e).pendingInterrupts = s.pendingInterrupts := rfl
@[simp] theorem State.log_tape (e : StorageEvent) : (s.log e).tape = s.tape := rfl
@[simp] theorem State.log_draws (e : StorageEvent) : (s.log e).draws = s.draws := rfl
@[simp] theorem State.log_completed (e : StorageEvent) : (s.log e).completed = s.completed := rfl

/-! ### `logFullBarrier` -/

@[simp] theorem State.logFullBarrier_regs : (s.logFullBarrier).regs = s.regs := rfl
@[simp] theorem State.logFullBarrier_cr : (s.logFullBarrier).cr = s.cr := rfl
@[simp] theorem State.logFullBarrier_xer : (s.logFullBarrier).xer = s.xer := rfl
@[simp] theorem State.logFullBarrier_msr : (s.logFullBarrier).msr = s.msr := rfl
@[simp] theorem State.logFullBarrier_nia : (s.logFullBarrier).nia = s.nia := rfl
@[simp] theorem State.logFullBarrier_sprs : (s.logFullBarrier).sprs = s.sprs := rfl
@[simp] theorem State.logFullBarrier_controls : (s.logFullBarrier).controls = s.controls := rfl
@[simp] theorem State.logFullBarrier_tm : (s.logFullBarrier).tm = s.tm := rfl
@[simp] theorem State.logFullBarrier_reservation : (s.logFullBarrier).reservation = s.reservation := rfl
@[simp] theorem State.logFullBarrier_power : (s.logFullBarrier).power = s.power := rfl
@[simp] theorem State.logFullBarrier_mem : (s.logFullBarrier).mem = s.mem := rfl
@[simp] theorem State.logFullBarrier_pages : (s.logFullBarrier).pages = s.pages := rfl
@[simp] theorem State.logFullBarrier_params : (s.logFullBarrier).params = s.params := rfl
@[simp] theorem State.logFullBarrier_storageLog : (s.logFullBarrier).storageLog = s.storageLog ++ fullBarrier := rfl
@[simp] theorem State.logFullBarrier_pendingInterrupts : (s.logFullBarrier).pendingInterrupts = s.pendingInterrupts := rfl
@[simp] theorem State.logFullBarrier_tape : (s.logFullBarrier).tape = s.tape := rfl
@[simp] theorem State.logFullBarrier_draws : (s.logFullBarrier).draws = s.draws := rfl
@[simp] theorem State.logFullBarrier_completed : (s.logFullBarrier).completed = s.completed := rfl

/-! ### `discardUpdates` -/

@[simp] theorem State.discardUpdates_regs : (s.discardUpdates).regs = s.regs := rfl
@[simp] theorem State.discardUpdates_cr : (s.discardUpdates).cr = s.cr := rfl
@[simp] theorem State.discardUpdates_xer : (s.discardUpdates).xer = s.xer := rfl
@[simp] theorem State.discardUpdates_msr : (s.discardUpdates).msr = s.msr := rfl
@[simp] theorem State.discardUpdates_nia : (s.discardUpdates).nia = s.nia := rfl
@[simp] theorem State.discardUpdates_sprs : (s.discardUpdates).sprs = s.sprs := rfl
@[simp] theorem State.discardUpdates_controls : (s.discardUpdates).controls = s.controls := rfl
@[simp] theorem State.discardUpdates_tm : (s.discardUpdates).tm = { s.tm with txData := [], updatesDiscarded := true } := rfl
@[simp] theorem State.discardUpdates_reservation : (s.discardUpdates).reservation = s.reservation := rfl
@[simp] theorem State.discardUpdates_power : (s.discardUpdates).power = s.power := rfl
@[simp] theorem State.discardUpdates_mem : (s.discardUpdates).mem = s.mem := rfl
@[simp] theorem State.discardUpdates_pages : (s.discardUpdates).pages = s.pages := rfl
@[simp] theorem State.discardUpdates_params : (s.discardUpdates).params = s.params := rfl
@[simp] theorem State.discardUpdates_storageLog : (s.discardUpdates).storageLog = s.storageLog := rfl
@[simp] theorem State.discardUpdates_pendingInterrupts : (s.discardUpdates).pendingInterrupts = s.pendingInterrupts := rfl
@[simp] theorem State.discardUpdates_tape : (s.discardUpdates).tape = s.tape := rfl
@[simp] theorem State.discardUpdates_draws : (s.discardUpdates).draws = s.draws := rfl
@[simp] theorem State.discardUpdates_completed : (s.discardUpdates).completed = s.completed := rfl

/-! ### `endTransaction` -/

@[simp] theorem State.endTransaction_regs : (s.endTransaction).regs = s.regs := rfl
@[simp] theorem State.endTransaction_cr : (s.endTransaction).cr = s.cr := rfl
@[simp] theorem State.endTransaction_xer : (s.endTransaction).xer = s.xer := rfl
@[simp] theorem State.endTransaction_msr : (s.endTransaction).msr = putTs s.msr tsN := rfl
@[simp] theorem State.endTransaction_nia : (s.endTransaction).nia = s.nia := rfl
@[simp] theorem State.endTransaction_sprs : (s.endTransaction).sprs = s.sprs := rfl
@[simp] theorem State.endTransaction_controls : (s.endTransaction).controls = s.controls := rfl
@[simp] theorem State.endTransaction_tm : (s.endTransaction).tm = Facility.idle := rfl
@[simp] theorem State.endTransaction_reservation : (s.endTransaction).reservation = s.reservation := rfl
@[simp] theorem State.endTransaction_power : (s.endTransaction).power = s.power := rfl
@[simp] theorem State.endTransaction_mem : (s.endTransaction).mem = s.mem := rfl
@[simp] theorem State.endTransaction_pages : (s.endTransaction).pages = s.pages := rfl
@[simp] theorem State.endTransaction_params : (s.endTransaction).params = s.params := rfl
@[simp] theorem State.endTransaction_storageLog : (s.endTransaction).storageLog = s.storageLog := rfl
@[simp] theorem State.endTransaction_pendingInterrupts : (s.endTransaction).pendingInterrupts = s.pendingInterrupts := rfl
@[simp] theorem State.endTransaction_tape : (s.endTransaction).tape = s.tape := rfl
@[simp] theorem State.endTransaction_draws : (s.endTransaction).draws = s.draws := rfl
@[simp] theorem State.endTransaction_completed : (s.endTransaction).completed = s.completed := rfl

/-! ### `revert` -/

@[simp] theorem State.revert_regs (c : Checkpoint) : (s.revert c).regs = c.regs := rfl
@[simp] theorem State.revert_cr (c : Checkpoint) : (s.revert c).cr = putCrField c.cr 0 (crField s.cr 0) := rfl
@[simp] theorem State.revert_xer (c : Checkpoint) : (s.revert c).xer = select Config.fxccMask s.xer c.xer := rfl
@[simp] theorem State.revert_msr (c : Checkpoint) : (s.revert c).msr = s.msr := rfl
@[simp] theorem State.revert_nia (c : Checkpoint) : (s.revert c).nia = s.nia := rfl
@[simp] theorem State.revert_sprs (c : Checkpoint) : (s.revert c).sprs = s.sprs := rfl
@[simp] theorem State.revert_controls (c : Checkpoint) : (s.revert c).controls = s.controls := rfl
@[simp] theorem State.revert_tm (c : Checkpoint) : (s.revert c).tm = s.tm := rfl
@[simp] theorem State.revert_reservation (c : Checkpoint) : (s.revert c).reservation = s.reservation := rfl
@[simp] theorem State.revert_power (c : Checkpoint) : (s.revert c).power = s.power := rfl
@[simp] theorem State.revert_mem (c : Checkpoint) : (s.revert c).mem = s.mem := rfl
@[simp] theorem State.revert_pages (c : Checkpoint) : (s.revert c).pages = s.pages := rfl
@[simp] theorem State.revert_params (c : Checkpoint) : (s.revert c).params = s.params := rfl
@[simp] theorem State.revert_storageLog (c : Checkpoint) : (s.revert c).storageLog = s.storageLog := rfl
@[simp] theorem State.revert_pendingInterrupts (c : Checkpoint) : (s.revert c).pendingInterrupts = s.pendingInterrupts := rfl
@[simp] theorem State.revert_tape (c : Checkpoint) : (s.revert c).tape = s.tape := rfl
@[simp] theorem State.revert_draws (c : Checkpoint) : (s.revert c).draws = s.draws := rfl
@[simp] theorem State.revert_completed (c : Checkpoint) : (s.revert c).completed = s.completed := rfl

/-! ### `takeInterrupt` -/

@[simp] theorem State.takeInterrupt_regs (k : InterruptKind) (a v : Word) : (s.takeInterrupt k a v).regs = s.regs := rfl
@[simp] theorem State.takeInterrupt_cr (k : InterruptKind) (a v : Word) : (s.takeInterrupt k a v).cr = s.cr := rfl
@[simp] theorem State.takeInterrupt_xer (k : InterruptKind) (a v : Word) : (s.takeInterrupt k a v).xer = s.xer := rfl
@[simp] theorem State.takeInterrupt_msr (k : InterruptKind) (a v : Word) : (s.takeInterrupt k a v).msr = s.interruptMsr k :=
  rfl
@[simp] theorem State.takeInterrupt_nia (k : InterruptKind) (a v : Word) : (s.takeInterrupt k a v).nia = wordAlign (interruptVector k) :=
  rfl
@[simp] theorem State.takeInterrupt_controls (k : InterruptKind) (a v : Word) : (s.takeInterrupt k a v).controls = s.controls :=
  rfl
@[simp] theorem State.takeInterrupt_tm (k : InterruptKind) (a v : Word) : (s.takeInterrupt k a v).tm = s.tm := rfl
@[simp] theorem State.takeInterrupt_reservation (k : InterruptKind) (a v : Word) : (s.takeInterrupt k a v).reservation = s.reservation :=
  rfl
@[simp] theorem State.takeInterrupt_power (k : InterruptKind) (a v : Word) : (s.takeInterrupt k a v).power = s.power := rfl
@[simp] theorem State.takeInterrupt_mem (k : InterruptKind) (a v : Word) : (s.takeInterrupt k a v).mem = s.mem := rfl
@[simp] theorem State.takeInterrupt_pages (k : InterruptKind) (a v : Word) : (s.takeInterrupt k a v).pages = s.pages := rfl
@[simp] theorem State.takeInterrupt_params (k : InterruptKind) (a v : Word) : (s.takeInterrupt k a v).params = s.params := rfl
@[simp] theorem State.takeInterrupt_storageLog (k : InterruptKind) (a v : Word) : (s.takeInterrupt k a v).storageLog = s.storageLog :=
  rfl
@[simp] theorem State.takeInterrupt_pendingInterrupts (k : InterruptKind) (a v : Word) : (s.takeInterrupt k a v).pendingInterrupts = s.pendingInterrupts :=
  rfl
@[simp] theorem State.takeInterrupt_tape (k : InterruptKind) (a v : Word) : (s.takeInterrupt k a v).tape = s.tape := rfl
@[simp] theorem State.takeInterrupt_draws (k : InterruptKind) (a v : Word) : (s.takeInterrupt k a v).draws = s.draws := rfl
@[simp] theorem State.takeInterrupt_completed (k : InterruptKind) (a v : Word) : (s.takeInterrupt k a v).completed = false :=
  rfl

/-! ### Readers of the state -/

@[simp] theorem State.setTs_ts (ts : BitVec 2) : (s.setTs ts).ts = ts :=
  BitVec.eq_of_getLsbD_eq fun i hi => by
    have : i = 0 ∨ i = 1 := by omega
    rcases this with rfl | rfl <;>
      simp [State.ts, State.setTs, msrTs, putTs, putField]

theorem State.ts_eq {s t : State} (h : t.msr = s.msr) : t.ts = s.ts := by rw [State.ts, h]; rfl

theorem State.active_eq {s t : State} (h : t.msr = s.msr) : t.active = s.active := by
  rw [State.active, State.ts_eq h]; rfl

theorem State.fs_eq {s t : State} (h : t.sprs = s.sprs) : t.fs = s.fs := by rw [State.fs, h]; rfl

@[simp] theorem State.tick_ts : s.tick.ts = s.ts := rfl
@[simp] theorem State.ticks_ts (n : Nat) : (s.ticks n).ts = s.ts := rfl
@[simp] theorem State.tick_active : s.tick.active = s.active := rfl
@[simp] theorem State.ticks_active (n : Nat) : (s.ticks n).active = s.active := rfl
@[simp] theorem State.tick_fs : s.tick.fs = s.fs := rfl
@[simp] theorem State.complete_ts : s.complete.ts = s.ts := rfl
@[simp] theorem State.setCr0State_ts : s.setCr0State.ts = s.ts := rfl
@[simp] theorem State.setCr0State_fs : s.setCr0State.fs = s.fs := rfl
@[simp] theorem State.setCr0_ts (v : CrField) : (s.setCr0 v).ts = s.ts := rfl
@[simp] theorem State.setGpr_ts (r : RegNum) (v : Word) : (s.setGpr r v).ts = s.ts := rfl
@[simp] theorem State.discardUpdates_ts : s.discardUpdates.ts = s.ts := rfl
@[simp] theorem State.discardUpdates_fs : s.discardUpdates.fs = s.fs := rfl

/-- The general register that was written reads as written. -/
@[simp] theorem State.gpr_setGpr (r : RegNum) (v : Word) : (s.setGpr r v).gpr r = v := by
  simp [State.gpr, State.setGpr]

/-- Every other general register reads as before. -/
theorem State.gpr_setGpr_of_ne (r q : RegNum) (v : Word) (h : q ≠ r) : (s.setGpr r v).gpr q = s.gpr q := by
  have : r.toNat ≠ q.toNat := fun e => h (BitVec.eq_of_toNat_eq e).symm
  simp [State.gpr, State.setGpr, Vector.getElem_set_ne _ _ this]

end Sys2Proof.Machine
end

