-- ==== Sys2Proof/Laws/Ops.lean ====
section
/-!
SUPPORT. What each shared operation can do, said once: the fields it leaves, and what it writes.
-/

namespace Sys2Proof.Machine

variable (s : State)

/-! ### Recording a failure -/

/-- A failure that is recorded already stays as it is (R171, R174). -/
theorem State.recordFailure_of_fs {s : State} (h : s.fs = true) (c : Word32) (ia : Option Word) :
    s.recordFailure c ia = s := by
  simp [State.recordFailure, h]

@[simp] theorem State.recordFailure_regs (c : Word32) (ia : Option Word) : (s.recordFailure c ia).regs = s.regs := by
  unfold State.recordFailure; split <;> rfl
@[simp] theorem State.recordFailure_cr (c : Word32) (ia : Option Word) : (s.recordFailure c ia).cr = s.cr := by
  unfold State.recordFailure; split <;> rfl
@[simp] theorem State.recordFailure_xer (c : Word32) (ia : Option Word) : (s.recordFailure c ia).xer = s.xer := by
  unfold State.recordFailure; split <;> rfl
@[simp] theorem State.recordFailure_msr (c : Word32) (ia : Option Word) : (s.recordFailure c ia).msr = s.msr := by
  unfold State.recordFailure; split <;> rfl
@[simp] theorem State.recordFailure_nia (c : Word32) (ia : Option Word) : (s.recordFailure c ia).nia = s.nia := by
  unfold State.recordFailure; split <;> rfl
@[simp] theorem State.recordFailure_controls (c : Word32) (ia : Option Word) : (s.recordFailure c ia).controls = s.controls := by
  unfold State.recordFailure; split <;> rfl
@[simp] theorem State.recordFailure_reservation (c : Word32) (ia : Option Word) : (s.recordFailure c ia).reservation = s.reservation := by
  unfold State.recordFailure; split <;> rfl
@[simp] theorem State.recordFailure_power (c : Word32) (ia : Option Word) : (s.recordFailure c ia).power = s.power := by
  unfold State.recordFailure; split <;> rfl
@[simp] theorem State.recordFailure_mem (c : Word32) (ia : Option Word) : (s.recordFailure c ia).mem = s.mem := by
  unfold State.recordFailure; split <;> rfl
@[simp] theorem State.recordFailure_pages (c : Word32) (ia : Option Word) : (s.recordFailure c ia).pages = s.pages := by
  unfold State.recordFailure; split <;> rfl
@[simp] theorem State.recordFailure_params (c : Word32) (ia : Option Word) : (s.recordFailure c ia).params = s.params := by
  unfold State.recordFailure; split <;> rfl
@[simp] theorem State.recordFailure_storageLog (c : Word32) (ia : Option Word) : (s.recordFailure c ia).storageLog = s.storageLog := by
  unfold State.recordFailure; split <;> rfl
@[simp] theorem State.recordFailure_pendingInterrupts (c : Word32) (ia : Option Word) : (s.recordFailure c ia).pendingInterrupts = s.pendingInterrupts := by
  unfold State.recordFailure; split <;> rfl
@[simp] theorem State.recordFailure_tape (c : Word32) (ia : Option Word) : (s.recordFailure c ia).tape = s.tape := by
  unfold State.recordFailure; split <;> rfl
@[simp] theorem State.recordFailure_completed (c : Word32) (ia : Option Word) : (s.recordFailure c ia).completed = s.completed := by
  unfold State.recordFailure; split <;> rfl

@[simp] theorem State.recordImprecise_regs (c : ImpreciseCause) : (s.recordImprecise c).regs = s.regs := by
  simp [State.recordImprecise]
@[simp] theorem State.recordImprecise_cr (c : ImpreciseCause) : (s.recordImprecise c).cr = s.cr := by
  simp [State.recordImprecise]
@[simp] theorem State.recordImprecise_xer (c : ImpreciseCause) : (s.recordImprecise c).xer = s.xer := by
  simp [State.recordImprecise]
@[simp] theorem State.recordImprecise_msr (c : ImpreciseCause) : (s.recordImprecise c).msr = s.msr := by
  simp [State.recordImprecise]
@[simp] theorem State.recordImprecise_nia (c : ImpreciseCause) : (s.recordImprecise c).nia = s.nia := by
  simp [State.recordImprecise]
@[simp] theorem State.recordImprecise_controls (c : ImpreciseCause) : (s.recordImprecise c).controls = s.controls := by
  simp [State.recordImprecise]
@[simp] theorem State.recordImprecise_reservation (c : ImpreciseCause) : (s.recordImprecise c).reservation = s.reservation := by
  simp [State.recordImprecise]
@[simp] theorem State.recordImprecise_power (c : ImpreciseCause) : (s.recordImprecise c).power = s.power := by
  simp [State.recordImprecise]
@[simp] theorem State.recordImprecise_mem (c : ImpreciseCause) : (s.recordImprecise c).mem = s.mem := by
  simp [State.recordImprecise]
@[simp] theorem State.recordImprecise_pages (c : ImpreciseCause) : (s.recordImprecise c).pages = s.pages := by
  simp [State.recordImprecise]
@[simp] theorem State.recordImprecise_params (c : ImpreciseCause) : (s.recordImprecise c).params = s.params := by
  simp [State.recordImprecise]
@[simp] theorem State.recordImprecise_storageLog (c : ImpreciseCause) : (s.recordImprecise c).storageLog = s.storageLog := by
  simp [State.recordImprecise]
@[simp] theorem State.recordImprecise_pendingInterrupts (c : ImpreciseCause) : (s.recordImprecise c).pendingInterrupts = s.pendingInterrupts := by
  simp [State.recordImprecise]
@[simp] theorem State.recordImprecise_tape (c : ImpreciseCause) : (s.recordImprecise c).tape = s.tape := by
  simp [State.recordImprecise]
@[simp] theorem State.recordImprecise_completed (c : ImpreciseCause) : (s.recordImprecise c).completed = s.completed := by
  simp [State.recordImprecise]

@[simp] theorem State.recordPending_regs : (s.recordPending).regs = s.regs := by
  unfold State.recordPending; split <;> simp
@[simp] theorem State.recordPending_cr : (s.recordPending).cr = s.cr := by
  unfold State.recordPending; split <;> simp
@[simp] theorem State.recordPending_xer : (s.recordPending).xer = s.xer := by
  unfold State.recordPending; split <;> simp
@[simp] theorem State.recordPending_msr : (s.recordPending).msr = s.msr := by
  unfold State.recordPending; split <;> simp
@[simp] theorem State.recordPending_nia : (s.recordPending).nia = s.nia := by
  unfold State.recordPending; split <;> simp
@[simp] theorem State.recordPending_controls : (s.recordPending).controls = s.controls := by
  unfold State.recordPending; split <;> simp
@[simp] theorem State.recordPending_reservation : (s.recordPending).reservation = s.reservation := by
  unfold State.recordPending; split <;> simp
@[simp] theorem State.recordPending_power : (s.recordPending).power = s.power := by
  unfold State.recordPending; split <;> simp
@[simp] theorem State.recordPending_mem : (s.recordPending).mem = s.mem := by
  unfold State.recordPending; split <;> simp
@[simp] theorem State.recordPending_pages : (s.recordPending).pages = s.pages := by
  unfold State.recordPending; split <;> simp
@[simp] theorem State.recordPending_params : (s.recordPending).params = s.params := by
  unfold State.recordPending; split <;> simp
@[simp] theorem State.recordPending_storageLog : (s.recordPending).storageLog = s.storageLog := by
  unfold State.recordPending; split <;> simp
@[simp] theorem State.recordPending_pendingInterrupts : (s.recordPending).pendingInterrupts = s.pendingInterrupts := by
  unfold State.recordPending; split <;> simp
@[simp] theorem State.recordPending_tape : (s.recordPending).tape = s.tape := by
  unfold State.recordPending; split <;> simp
@[simp] theorem State.recordPending_completed : (s.recordPending).completed = s.completed := by
  unfold State.recordPending; split <;> simp

theorem State.recordFailure_tm (c : Word32) (ia : Option Word) :
    (s.recordFailure c ia).tm = if s.fs then s.tm else { s.tm with tdoomed := true } := by
  unfold State.recordFailure; split <;> rfl

theorem State.recordImprecise_tm (c : ImpreciseCause) :
    (s.recordImprecise c).tm = if s.fs then s.tm else { s.tm with tdoomed := true } := by
  rw [State.recordImprecise, State.recordFailure_tm]; rfl

theorem State.recordPending_tm :
    s.recordPending.tm = if s.fs then s.tm else { s.tm with tdoomed := true } := by
  unfold State.recordPending
  split
  · rfl
  · rename_i h; rw [State.recordImprecise_tm]; simp [h]

/-! The image a recording writes, bit by bit (R172). -/

theorem texasrRecorded_fs (x : Word) (cause : Word32) (su hv pr ex : Bool) :
    texasrFs (texasrRecorded x cause su hv pr ex) = true := by
  simp only [texasrRecorded, texasrFs]
  rw [bit_putBit _ _ _ _ (by decide) (by decide), if_neg (by decide), bit_putBit _ _ _ _ (by decide) (by decide),
    if_pos rfl]

theorem texasrRecorded_tl (x : Word) (cause : Word32) (su hv pr ex : Bool) :
    texasrTl (texasrRecorded x cause su hv pr ex) = texasrTl x := by
  unfold texasrRecorded
  rw [texasrTl_putBit _ _ _ (by decide), texasrTl_putBit _ _ _ (by decide), texasrTl_putBit _ _ _ (by decide),
    texasrTl_putBit _ _ _ (by decide)]
  have h : texasrTl (putField x 32 32 cause) = texasrTl x :=
    extract_putField_of_disjoint _ _ _ _ _ _ (by decide) (by decide)
  cases su
  · exact h
  · simp only [if_true]
    rw [texasrTl_putBit _ _ _ (by decide), h]

theorem texasrRecorded_cause (x : Word) (cause : Word32) (su hv pr ex : Bool) :
    texasrCause (texasrRecorded x cause su hv pr ex) = cause := by
  have hb : ∀ (y : Word) (i : Nat) (b : Bool), 32 ≤ i → i < 64 → texasrCause (putBit y i b) = texasrCause y := fun y i b h h' =>
    extract_putField_of_disjoint _ _ _ _ _ _ (by decide) (by omega)
  have h : texasrCause (putField x 32 32 cause) = cause := extract_putField _ _ _ _ (by decide)
  simp only [texasrRecorded]
  rw [hb _ _ _ (by decide) (by decide), hb _ _ _ (by decide) (by decide), hb _ _ _ (by decide) (by decide),
    hb _ _ _ (by decide) (by decide)]
  cases su
  · exact h
  · simp only [if_true]; rw [hb _ _ _ (by decide) (by decide), h]

/-- Bits 33, 38 and 39 to 63 of TEXASR are unchanged by a recording (R172). -/
theorem texasrRecorded_bit (x : Word) (cause : Word32) (su hv pr ex : Bool) (k : Nat)
    (h : k = 33 ∨ 38 ≤ k) : bit (texasrRecorded x cause su hv pr ex) k = bit x k := by
  by_cases hk : k < 64
  · simp only [texasrRecorded]
    rw [bit_putBit _ _ _ _ (by decide) hk, if_neg (by omega), bit_putBit _ _ _ _ (by decide) hk, if_neg (by omega),
      bit_putBit _ _ _ _ (by decide) hk, if_neg (by omega), bit_putBit _ _ _ _ (by decide) hk, if_neg (by omega)]
    have hf : bit (putField x 32 32 cause) k = bit x k := by rw [bit_putField _ _ _ _ _ hk, if_neg (by omega)]
    cases su
    · exact hf
    · simp only [if_true]; rw [bit_putBit _ _ _ _ (by decide) hk, if_neg (by omega), hf]
  · rw [bit_of_ge _ _ (by omega), bit_of_ge _ _ (by omega)]

theorem State.recordFailure_fs (c : Word32) (ia : Option Word) : (s.recordFailure c ia).fs = true := by
  unfold State.recordFailure
  split
  · assumption
  · exact texasrRecorded_fs _ _ _ _ _ _

theorem State.recordImprecise_fs (c : ImpreciseCause) : (s.recordImprecise c).fs = true :=
  State.recordFailure_fs _ _ _

theorem State.recordPending_fs : s.recordPending.fs = true := by
  unfold State.recordPending
  split
  · assumption
  · exact State.recordImprecise_fs _ _

@[simp] theorem State.recordFailure_tl (c : Word32) (ia : Option Word) :
    texasrTl (s.recordFailure c ia).sprs.texasr = texasrTl s.sprs.texasr := by
  unfold State.recordFailure
  split
  · rfl
  · exact texasrRecorded_tl _ _ _ _ _ _

@[simp] theorem State.recordImprecise_tl (c : ImpreciseCause) :
    texasrTl (s.recordImprecise c).sprs.texasr = texasrTl s.sprs.texasr := by
  rw [State.recordImprecise, State.recordFailure_tl]; rfl

@[simp] theorem State.recordPending_tl :
    texasrTl s.recordPending.sprs.texasr = texasrTl s.sprs.texasr := by
  unfold State.recordPending
  split
  · rfl
  · rw [State.recordImprecise_tl]; rfl

/-- A recording writes TEXASR and TFIAR and no other special purpose register (R172). -/
theorem State.recordFailure_sprs (c : Word32) (ia : Option Word) :
    (s.recordFailure c ia).sprs =
      { s.sprs with
        texasr := (s.recordFailure c ia).sprs.texasr
        tfiar := (s.recordFailure c ia).sprs.tfiar } := by
  unfold State.recordFailure; split <;> rfl

theorem State.recordImprecise_sprs (c : ImpreciseCause) :
    (s.recordImprecise c).sprs =
      { s.sprs with
        texasr := (s.recordImprecise c).sprs.texasr
        tfiar := (s.recordImprecise c).sprs.tfiar } := by
  rw [State.recordImprecise]; exact State.recordFailure_sprs _ _ _

theorem State.recordPending_sprs :
    s.recordPending.sprs =
      { s.sprs with texasr := s.recordPending.sprs.texasr, tfiar := s.recordPending.sprs.tfiar } := by
  unfold State.recordPending
  split
  · rfl
  · exact State.recordImprecise_sprs _ _

/-! ### Detecting a failure -/

@[simp] theorem State.detect_regs (c : ImpreciseCause) : (s.detect c).regs = s.regs := by
  unfold State.detect; split <;> rfl
@[simp] theorem State.detect_cr (c : ImpreciseCause) : (s.detect c).cr = s.cr := by
  unfold State.detect; split <;> rfl
@[simp] theorem State.detect_xer (c : ImpreciseCause) : (s.detect c).xer = s.xer := by
  unfold State.detect; split <;> rfl
@[simp] theorem State.detect_msr (c : ImpreciseCause) : (s.detect c).msr = s.msr := by
  unfold State.detect; split <;> rfl
@[simp] theorem State.detect_nia (c : ImpreciseCause) : (s.detect c).nia = s.nia := by
  unfold State.detect; split <;> rfl
@[simp] theorem State.detect_sprs (c : ImpreciseCause) : (s.detect c).sprs = s.sprs := by
  unfold State.detect; split <;> rfl
@[simp] theorem State.detect_controls (c : ImpreciseCause) : (s.detect c).controls = s.controls := by
  unfold State.detect; split <;> rfl
@[simp] theorem State.detect_reservation (c : ImpreciseCause) : (s.detect c).reservation = s.reservation := by
  unfold State.detect; split <;> rfl
@[simp] theorem State.detect_power (c : ImpreciseCause) : (s.detect c).power = s.power := by
  unfold State.detect; split <;> rfl
@[simp] theorem State.detect_mem (c : ImpreciseCause) : (s.detect c).mem = s.mem := by
  unfold State.detect; split <;> rfl
@[simp] theorem State.detect_pages (c : ImpreciseCause) : (s.detect c).pages = s.pages := by
  unfold State.detect; split <;> rfl
@[simp] theorem State.detect_params (c : ImpreciseCause) : (s.detect c).params = s.params := by
  unfold State.detect; split <;> rfl
@[simp] theorem State.detect_storageLog (c : ImpreciseCause) : (s.detect c).storageLog = s.storageLog := by
  unfold State.detect; split <;> rfl
@[simp] theorem State.detect_pendingInterrupts (c : ImpreciseCause) : (s.detect c).pendingInterrupts = s.pendingInterrupts := by
  unfold State.detect; split <;> rfl
@[simp] theorem State.detect_tape (c : ImpreciseCause) : (s.detect c).tape = s.tape := by
  unfold State.detect; split <;> rfl
@[simp] theorem State.detect_draws (c : ImpreciseCause) : (s.detect c).draws = s.draws := by
  unfold State.detect; split <;> rfl
@[simp] theorem State.detect_completed (c : ImpreciseCause) : (s.detect c).completed = s.completed := by
  unfold State.detect; split <;> rfl

/-- All that a cause of failure that arises can do: nothing without an active transaction; else it is detected, or noted as latent. -/
theorem State.arise_cases (l : Latent) :
    s.arise l = s ∨ (s.active = true ∧ s.arise l = s.tick.detect l.cause) ∨
      (s.active = true ∧ s.arise l = { s.tick with tm := { s.tm with latent := s.tm.latent ++ [l] } }) := by
  unfold State.arise
  split
  · rename_i h
    split
    · exact .inr (.inl ⟨h, rfl⟩)
    · exact .inr (.inr ⟨h, rfl⟩)
  · exact .inl rfl

@[simp] theorem State.arise_regs (l : Latent) : (s.arise l).regs = s.regs := by
  unfold State.arise; split <;> (try split) <;> simp
@[simp] theorem State.arise_cr (l : Latent) : (s.arise l).cr = s.cr := by
  unfold State.arise; split <;> (try split) <;> simp
@[simp] theorem State.arise_xer (l : Latent) : (s.arise l).xer = s.xer := by
  unfold State.arise; split <;> (try split) <;> simp
@[simp] theorem State.arise_msr (l : Latent) : (s.arise l).msr = s.msr := by
  unfold State.arise; split <;> (try split) <;> simp
@[simp] theorem State.arise_nia (l : Latent) : (s.arise l).nia = s.nia := by
  unfold State.arise; split <;> (try split) <;> simp
@[simp] theorem State.arise_sprs (l : Latent) : (s.arise l).sprs = s.sprs := by
  unfold State.arise; split <;> (try split) <;> simp
@[simp] theorem State.arise_controls (l : Latent) : (s.arise l).controls = s.controls := by
  unfold State.arise; split <;> (try split) <;> simp
@[simp] theorem State.arise_reservation (l : Latent) : (s.arise l).reservation = s.reservation := by
  unfold State.arise; split <;> (try split) <;> simp
@[simp] theorem State.arise_power (l : Latent) : (s.arise l).power = s.power := by
  unfold State.arise; split <;> (try split) <;> simp
@[simp] theorem State.arise_mem (l : Latent) : (s.arise l).mem = s.mem := by
  unfold State.arise; split <;> (try split) <;> simp
@[simp] theorem State.arise_pages (l : Latent) : (s.arise l).pages = s.pages := by
  unfold State.arise; split <;> (try split) <;> simp
@[simp] theorem State.arise_params (l : Latent) : (s.arise l).params = s.params := by
  unfold State.arise; split <;> (try split) <;> simp
@[simp] theorem State.arise_storageLog (l : Latent) : (s.arise l).storageLog = s.storageLog := by
  unfold State.arise; split <;> (try split) <;> simp
@[simp] theorem State.arise_pendingInterrupts (l : Latent) : (s.arise l).pendingInterrupts = s.pendingInterrupts := by
  unfold State.arise; split <;> (try split) <;> simp
@[simp] theorem State.arise_tape (l : Latent) : (s.arise l).tape = s.tape := by
  unfold State.arise; split <;> (try split) <;> simp
@[simp] theorem State.arise_completed (l : Latent) : (s.arise l).completed = s.completed := by
  unfold State.arise; split <;> (try split) <;> simp

/-- A cause that arises changes nothing but TDOOMED, the causes and the draws. -/
theorem State.arise_frame (l : Latent) :
    ∃ tdoomed pending latent draws, s.arise l =
      { s with tm := { s.tm with tdoomed := tdoomed, pending := pending, latent := latent }, draws := draws } ∧
      (s.tm.tdoomed = true → tdoomed = true) := by
  unfold State.arise State.detect
  repeat' split
  all_goals exact ⟨_, _, _, _, rfl, fun h => by first | rfl | exact h⟩

/-- What settling the causes of a kind leaves: the same state but for TDOOMED, the causes and the draws (R221, R357). -/
theorem State.settle_frame (p : Latent → Bool) :
    ∃ tdoomed pending latent draws, s.settle p =
      { s with tm := { s.tm with tdoomed := tdoomed, pending := pending, latent := latent }, draws := draws } ∧
      (s.tm.tdoomed = true → tdoomed = true) :=
  ⟨_, _, _, _, rfl, fun h => by simp [h]⟩

@[simp] theorem State.settle_regs (p : Latent → Bool) : (s.settle p).regs = s.regs := rfl
@[simp] theorem State.settle_cr (p : Latent → Bool) : (s.settle p).cr = s.cr := rfl
@[simp] theorem State.settle_xer (p : Latent → Bool) : (s.settle p).xer = s.xer := rfl
@[simp] theorem State.settle_msr (p : Latent → Bool) : (s.settle p).msr = s.msr := rfl
@[simp] theorem State.settle_nia (p : Latent → Bool) : (s.settle p).nia = s.nia := rfl
@[simp] theorem State.settle_sprs (p : Latent → Bool) : (s.settle p).sprs = s.sprs := rfl
@[simp] theorem State.settle_controls (p : Latent → Bool) : (s.settle p).controls = s.controls := rfl
@[simp] theorem State.settle_reservation (p : Latent → Bool) : (s.settle p).reservation = s.reservation := rfl
@[simp] theorem State.settle_power (p : Latent → Bool) : (s.settle p).power = s.power := rfl
@[simp] theorem State.settle_mem (p : Latent → Bool) : (s.settle p).mem = s.mem := rfl
@[simp] theorem State.settle_pages (p : Latent → Bool) : (s.settle p).pages = s.pages := rfl
@[simp] theorem State.settle_params (p : Latent → Bool) : (s.settle p).params = s.params := rfl
@[simp] theorem State.settle_storageLog (p : Latent → Bool) : (s.settle p).storageLog = s.storageLog := rfl
@[simp] theorem State.settle_pendingInterrupts (p : Latent → Bool) : (s.settle p).pendingInterrupts = s.pendingInterrupts := rfl
@[simp] theorem State.settle_tape (p : Latent → Bool) : (s.settle p).tape = s.tape := rfl
@[simp] theorem State.settle_completed (p : Latent → Bool) : (s.settle p).completed = s.completed := rfl

@[simp] theorem State.settle_ts (p : Latent → Bool) : (s.settle p).ts = s.ts := rfl

/-- Nothing to settle: the state stays. -/
theorem State.settle_of_none {s : State} {p : Latent → Bool} (h : ∀ l, l ∈ s.tm.latent → p l = false) : s.settle p = s := by
  have h1 : s.tm.latent.filter p = [] := List.filter_eq_nil_iff.2 fun l hl => by simp [h l hl]
  have h2 : (s.tm.latent.filter fun l => !p l) = s.tm.latent := List.filter_eq_self.2 fun l hl => by simp [h l hl]
  simp [State.settle, h1, h2]

/-- A certain cause among those settled dooms the transaction. -/
theorem State.settle_tdoomed {s : State} {p : Latent → Bool} {l : Latent} (hl : l ∈ s.tm.latent) (hp : p l = true)
    (hc : l.certain = true) : (s.settle p).tm.tdoomed = true := by
  obtain ⟨i, hi, rfl⟩ := List.getElem_of_mem (List.mem_filter.2 ⟨hl, hp⟩)
  have hm : ((s.tm.latent.filter p)[i], i) ∈
      (s.tm.latent.filter p).zipIdx.filter (fun l => l.1.certain || Config.freeBit (s.draws + l.2)) :=
    List.mem_filter.2 ⟨List.mem_zipIdx_iff_getElem?.2 (List.getElem?_eq_getElem hi), by simp [hc]⟩
  have hne := List.ne_nil_of_mem (List.mem_map_of_mem (f := fun l : Latent × Nat => l.1.cause) hm)
  simp only [State.settle, Bool.or_eq_true, Bool.not_eq_true', List.isEmpty_eq_false_iff]
  exact .inr hne

/-- Where none but uncertain causes are settled by a test that takes certain ones only, none is. -/
theorem State.settle_certain_of_none {s : State} (h : ∀ l, l ∈ s.tm.latent → l.certain = false) :
    s.settle (·.certain) = s := State.settle_of_none h

/-- Only an active transaction fails. -/
theorem State.detect_of_not_active {s : State} (h : s.active = false) (c : ImpreciseCause) : s.detect c = s := by
  simp [State.detect, h]

theorem State.arise_of_not_active {s : State} (h : s.active = false) (l : Latent) : s.arise l = s := by
  simp [State.arise, h]

/-- A certain cause against an active transaction means that it fails (R161, R166). -/
theorem State.willFail_failing {s : State} (h : s.active = true) (c : ImpreciseCause) (p : Place) :
    (s.willFail c p).tm.tdoomed = true ∨ ∃ l, l ∈ (s.willFail c p).tm.latent ∧ l.certain = true := by
  unfold State.willFail State.arise
  rw [if_pos h]
  split
  · left; simp [State.detect, show s.tick.active = true from h]
  · right; exact ⟨⟨c, true, p⟩, by simp, rfl⟩

/-- A detection dooms the transaction and notes the cause; nothing else of the facility changes. -/
theorem State.detect_tm {s : State} (h : s.active = true) (c : ImpreciseCause) :
    (s.detect c).tm = { s.tm with tdoomed := true, pending := s.tm.pending ++ [c] } := by
  simp [State.detect, h]

/-! ### Handling a failure -/

/-- All that failure handling can do: with a checkpoint, one next state; without one, the fault (R176). -/
theorem State.handleFailure_cases {s : State} {r : Result} (h : s.handleFailure = r) :
    (s.tm.checkpoint = none ∧ r = .fault .noCheckpoint) ∨
    ∃ c, s.tm.checkpoint = some c ∧
      r = .next { ((s.revert c).endTransaction.setCr0 failureField) with
        nia := wordAlign s.sprs.tfhar, reservation := none } := by
  unfold State.handleFailure at h
  split at h
  · exact .inl ⟨by assumption, h.symm⟩
  · exact .inr ⟨_, by assumption, h.symm⟩

theorem State.handleFailure_next {s : State} {c : Checkpoint} (h : s.tm.checkpoint = some c) :
    s.handleFailure = .next { ((s.revert c).endTransaction.setCr0 failureField) with
      nia := wordAlign s.sprs.tfhar, reservation := none } := by
  simp [State.handleFailure, h]

/-! ### Guards -/

/-- The facility is available exactly when the three conditions of R201 hold. -/
theorem State.availability_available_iff :
    s.availability = .available ↔
      ¬ (msrPr s.msr = true ∧ s.tmDisabledByPcr = true) ∧ (s.hypervisorState = true ∨ s.controls.hfscrTm = true) ∧
        msrTm s.msr = true := by
  unfold State.availability
  cases msrPr s.msr <;> cases s.tmDisabledByPcr <;> cases s.hypervisorState <;> cases s.controls.hfscrTm <;>
    cases msrTm s.msr <;> simp

theorem State.guardTm_of_available {s : State} (h : s.availability = .available) (body : Result) :
    s.guardTm body = body := by
  simp [State.guardTm, h]

/-- All that a guarded TM instruction can do (R201). -/
theorem State.guardTm_cases {s : State} {body r : Result} (h : s.guardTm body = r) :
    (s.availability = .available ∧ r = body) ∨
    (s.availability = .hypervisorUnavailable ∧ r = .next s.hypervisorFacilityUnavailable) ∨
    (s.availability = .unavailable ∧ r = .next s.facilityUnavailable) ∨
    (s.availability = .disabledByPcr ∧ r = .refused .tmDisabledByPcr) := by
  unfold State.guardTm at h
  split at h <;> simp_all

/-- All that a privileged instruction can do (R287). -/
theorem State.guardLevel_cases {s : State} {level : PrivLevel} {body r : Result} (h : s.guardLevel level body = r) :
    (s.mayRun level = true ∧ r = body) ∨ (s.mayRun level = false ∧ r = .next s.privilegedInstruction) := by
  unfold State.guardLevel at h
  split at h <;> simp_all

/-! ### Interrupts -/

/-- What any interrupt does to `TS || TM`: Transactional becomes Suspended, TM becomes 0 (R290). -/
theorem State.interruptMsr_tsTm (k : InterruptKind) :
    msrTsTm (s.interruptMsr k) = interruptTs s.ts ++ 0#1 := by
  unfold State.interruptMsr
  rw [msrTsTm_putBit _ _ _ (by decide), msrTsTm_putBit _ _ _ (by decide), msrTsTm_putBit _ _ _ (by decide),
    msrTsTm_putBit _ _ _ (by decide), msrTsTm_putBit _ _ _ (by decide)]
  have h : ∀ x : BitVec 2, msrTsTm (putTs 0 x) = x ++ 0#1 := by decide
  exact h _

@[simp] theorem State.takeInterrupt_ts (k : InterruptKind) (a v : Word) :
    (s.takeInterrupt k a v).ts = interruptTs s.ts := by
  show msrTs (s.interruptMsr k) = _
  rw [msrTs_eq, State.interruptMsr_tsTm]
  have h : ∀ x : BitVec 2, (x ++ 0#1 : BitVec 3).extractLsb' 1 2 = x := by decide
  exact h _

/-- An interrupt writes only its two save registers among the special purpose registers (R291). -/
theorem State.takeInterrupt_sprs (k : InterruptKind) (a v : Word) :
    (s.takeInterrupt k a v).sprs =
      { s.sprs with
        srr0 := if s.usesHsrr k then s.sprs.srr0 else a
        srr1 := if s.usesHsrr k then s.sprs.srr1 else savedMsr s.msr v
        hsrr0 := if s.usesHsrr k then a else s.sprs.hsrr0
        hsrr1 := if s.usesHsrr k then savedMsr s.msr v else s.sprs.hsrr1 } := by
  unfold State.takeInterrupt
  cases s.usesHsrr k <;> rfl

@[simp] theorem State.takeInterrupt_texasr (k : InterruptKind) (a v : Word) :
    (s.takeInterrupt k a v).sprs.texasr = s.sprs.texasr := by
  rw [State.takeInterrupt_sprs]

@[simp] theorem State.takeInterrupt_tfhar (k : InterruptKind) (a v : Word) :
    (s.takeInterrupt k a v).sprs.tfhar = s.sprs.tfhar := by
  rw [State.takeInterrupt_sprs]

@[simp] theorem State.takeInterrupt_tfiar (k : InterruptKind) (a v : Word) :
    (s.takeInterrupt k a v).sprs.tfiar = s.sprs.tfiar := by
  rw [State.takeInterrupt_sprs]

/-! ### Table 2 and the return from interrupt -/

/-- All that rfid, hrfid and mtmsrd L=0 can do once they are allowed to run (R251, R252, R256). -/
theorem State.loadMsr_cases {s : State} {image loaded : Word} {next : Word → Word} {traced : Bool} {r : Result}
    (h : s.loadMsr image loaded next traced = r) :
    let transition := tmTransition (msrTsTm s.msr) (msrTsTm image)
    let newMsr := transition.applyTo loaded
    let resumes := s.ts == tsS && msrTs newMsr == tsT
    let t := { s with
      msr := newMsr, completed := traced
      nia := if resumes && s.tm.handleOnResume then wordAlign s.sprs.tfhar else next newMsr
      reservation := if resumes then s.reservationOnResume else s.reservation }
    ((transition = .badThing ∨ s.pcrBadThing newMsr = true) ∧ r = .next s.tmBadThing) ∨
    (transition ≠ .badThing ∧ s.pcrBadThing newMsr = false ∧
      ((s.fpEnabledBy newMsr = true ∧ r = .next (t.fpAtNext true)) ∨
       (s.fpEnabledBy newMsr = false ∧ resumes = true ∧ r = t.afterResume) ∨
       (s.fpEnabledBy newMsr = false ∧ resumes = false ∧ r = .next t))) := by
  intro transition newMsr resumes t
  change (if transition = .badThing || s.pcrBadThing newMsr then .next s.tmBadThing
    else if s.fpEnabledBy newMsr then .next (t.fpAtNext true)
    else if resumes then t.afterResume else .next t) = r at h
  clear_value t resumes
  split at h
  · rename_i hb
    exact .inl ⟨by simpa using hb, h.symm⟩
  · rename_i hb
    simp only [Bool.or_eq_true, decide_eq_true_eq, not_or, Bool.not_eq_true] at hb
    refine .inr ⟨hb.1, hb.2, ?_⟩
    split at h
    · exact .inl ⟨by assumption, h.symm⟩
    · rename_i hf
      split at h
      · exact .inr (.inl ⟨by simpa using hf, by assumption, h.symm⟩)
      · rename_i hr
        exact .inr (.inr ⟨by simpa using hf, by simpa using hr, h.symm⟩)

/-! ### Traces -/

/-- All that the trace check can do (R300). -/
theorem traceAfter_cases {traced : Bool} {r r' : Result} (h : traceAfter traced r = r') :
    r' = r ∨ ∃ t, r = .next t ∧ traced = true ∧ t.completed = true ∧
      (t.fpDue = true ∧ r' = .next t.fpBetween ∨ t.fpDue = false ∧ r' = .next t.traceInterrupt) := by
  unfold traceAfter at h
  split at h
  · rename_i t
    split at h
    · rename_i hc
      simp only [Bool.and_eq_true] at hc
      split at h
      · rename_i hf
        exact .inr ⟨t, rfl, hc.1, hc.2, .inl ⟨hf, h.symm⟩⟩
      · rename_i hf
        exact .inr ⟨t, rfl, hc.1, hc.2, .inr ⟨by simpa using hf, h.symm⟩⟩
    · exact .inl h.symm
  · exact .inl h.symm

end Sys2Proof.Machine
end

