-- ==== Sys2Proof/Laws/Storage.lean ====
section
/-!
SUPPORT. What each shared operation of a data access, of another processor and of an interrupt can do, said once.
-/

namespace Sys2Proof.Machine

/-! ### Pages and the access itself -/

/-- The words of `accessClear`: nothing stops an access that meets no page with an exception nor, in Transactional state, one of a disallowed
type. -/
theorem State.accessStop_of_clear (s : State) (st f p : Bool) (addrs : List Nat) (b : Nat)
    (h : ∀ a, a ∈ addrs → ∀ q, s.pageAt a = some q → q.exceptionOf st = none ∧
      (s.ts = tsT → q.cachingInhibited = false ∧ q.writeThrough = false ∧ q.coherenceNotRequired = false)) :
    s.accessStop st f p addrs b = none := by
  induction addrs generalizing b with
  | nil => rfl
  | cons a rest ih =>
    have ih := fun b => ih b fun x hx => h x (by simp [hx])
    unfold State.accessStop
    cases hq : s.pageAt a with
    | none => exact ih _
    | some q =>
      obtain ⟨he, ht⟩ := h a (by simp) q hq
      have hb : s.byteStop q st f p b = none := by
        unfold State.byteStop State.disallowedStop
        rw [he]
        by_cases hs : s.ts = tsT
        · obtain ⟨h1, h2, h3⟩ := ht hs
          simp [h1, h2, h3]
        · simp [hs]
      simp only [Option.bind_some, hb]
      exact ih _

theorem State.dataAccess_of_clear (s : State) (st : Bool) (addrs : List Nat) (cells : List Host.Cell)
    (f : State → Result) (h : ∀ a, a ∈ addrs → ∀ q, s.pageAt a = some q → q.exceptionOf st = none ∧
      (s.ts = tsT → q.cachingInhibited = false ∧ q.writeThrough = false ∧ q.coherenceNotRequired = false)) :
    s.dataAccess st addrs cells f = f ((s.tick.tick.recordAccess st addrs).logAccess st addrs) := by
  unfold State.dataAccess
  simp only
  rw [State.accessStop_of_clear s _ _ _ _ _ h]

/-- All that an access that is stopped can come to. -/
theorem State.stopAccess_cases {s : State} {st : Bool} {addrs : List Nat} {cells : List Host.Cell} {stop : AccessStop} {r : Result}
    (h : s.stopAccess st addrs cells stop = r) :
    (∃ e before, stop = .exception e before ∧ r = .next (((s.mayTouchPages addrs (st && !e.isProtection)).accessOthers st
      (addrs.eraseIdx before) (cells.eraseIdx before)).dataInterrupt e)) ∨
    (stop = .disallowed ∧ r = (s.mayTouchPages addrs st).failDisallowed) ∨
    (stop = .pendingFailure ∧ r = (s.mayTouchPages addrs st).handlePending) := by
  cases stop with
  | exception e before => exact .inl ⟨e, before, rfl, h.symm⟩
  | disallowed => exact .inr (.inl ⟨rfl, h.symm⟩)
  | pendingFailure => exact .inr (.inr ⟨rfl, h.symm⟩)

/-- In Transactional state with a failure pending, no access of a disallowed type is performed (R178). -/
theorem State.disallowedStop_of_doomed {s : State} (h : s.ts = tsT) (hd : s.tm.tdoomed = true) {p : Page}
    (hp : p.cachingInhibited = true ∨ p.writeThrough = true ∨ p.coherenceNotRequired = true) (st f : Bool) :
    s.disallowedStop p st f = some .disallowed ∨ s.disallowedStop p st f = some .pendingFailure := by
  unfold State.disallowedStop
  rw [if_pos (by rcases hp with hp | hp | hp <;> simp [h, hp]), hd]
  split
  · exact .inl rfl
  · exact .inr rfl

/-- The page of an address stays, but for its Reference and Change bits. -/
theorem find_marked (addrs : List Nat) (r c : Bool) (pages : List Page) (a : Nat) :
    (marked addrs r c pages).find? (fun p => p.covers a) =
      (pages.find? fun p => p.covers a).map fun p =>
        { p with
          referenced := p.referenced || (r && addrs.any p.covers), changed := p.changed || (c && addrs.any p.covers) } := by
  unfold marked
  rw [List.find?_map]
  rfl

/-- What "Acc" can do (R105): the Reference and Change bits, C only with R and where it may be set. -/
theorem State.mayTouchPages_frame (s : State) (addrs : List Nat) (mayChange : Bool) :
    ∃ r c draws, (c = true → r = true ∧ mayChange = true) ∧
      s.mayTouchPages addrs mayChange = { s with draws := draws, pages := marked addrs r c s.pages } := by
  refine ⟨(mayChange && Config.freeBit s.draws) || Config.freeBit (s.draws + 1), mayChange && Config.freeBit s.draws, _, ?_, rfl⟩
  intro hc
  simp only [hc, Bool.true_or, true_and]
  simp only [Bool.and_eq_true] at hc
  exact hc.1

/-- What an access that is performed notes (R105): Reference and Change bits and draws. Outside Transactional state R is set, and C by a
store; in it they may be. -/
theorem State.recordAccess_frame (s : State) (st : Bool) (addrs : List Nat) :
    ∃ r c draws, (c = true → r = true ∧ st = true) ∧ (s.ts ≠ tsT → r = true ∧ c = st) ∧
      s.recordAccess st addrs = { s with draws := draws, pages := marked addrs r c s.pages } := by
  unfold State.recordAccess
  split
  · rename_i h
    obtain ⟨r, c, draws, h1, h2⟩ := State.mayTouchPages_frame s addrs st
    exact ⟨r, c, draws, h1, fun h' => absurd h h', h2⟩
  · exact ⟨true, st, s.draws, fun h => ⟨rfl, h⟩, fun _ => ⟨rfl, rfl⟩, rfl⟩

/-- What an access that is performed leaves before its loads or stores. -/
theorem State.beforeAccess_frame (s : State) (st : Bool) (addrs : List Nat) :
    ∃ r c log draws, (c = true → r = true ∧ st = true) ∧ (s.ts ≠ tsT → r = true ∧ c = st) ∧
      (s.tick.tick.recordAccess st addrs).logAccess st addrs =
        { s with storageLog := log, draws := draws, pages := marked addrs r c s.pages } := by
  obtain ⟨r, c, draws, h1, h2, h⟩ := State.recordAccess_frame s.tick.tick st addrs
  refine ⟨r, c, ((s.tick.tick.recordAccess st addrs).logAccess st addrs).storageLog, draws, h1, h2, ?_⟩
  rw [h]
  rfl

/-! ### Loads and stores -/

theorem storageOrder_length (o : ByteOrder) (l : List Byte) : (storageOrder o l).length = l.length := by
  cases o <;> simp [storageOrder]

/-- A Store has as many bytes as its operand. -/
theorem State.storeData_length (s : State) (parts : List StorePart) :
    (parts.flatMap (·.data s)).length = storeSize parts := by
  unfold storeSize
  rw [List.length_flatMap]
  congr 1
  apply List.map_congr_left
  intro p _
  simp [StorePart.data, storageOrder_length, splitBytes]

/-- The addresses of the bytes a Store writes are those of its operand. -/
theorem State.storedCells_addresses (s : State) (ea : Word) (parts : List StorePart) :
    (s.storedCells ea parts).map (·.1) = s.operandAddresses ea (storeSize parts) := by
  unfold State.storedCells
  rw [List.map_fst_zip]
  rw [State.storeData_length]
  simp [State.operandAddresses]

/-- An operand of at most 2^32 bytes has no address twice. -/
theorem State.operandAddresses_nodup (s : State) (ea : Word) (n : Nat) (h : n ≤ 2 ^ 32) : (s.operandAddresses ea n).Nodup := by
  unfold State.operandAddresses
  refine (List.nodup_map_iff_inj_on List.nodup_range).2 fun i hi j hj e => ?_
  rw [List.mem_range] at hi hj
  unfold State.effective at e
  split at e
  · have := congrArg (BitVec.ofNat 64) e
    simp only [BitVec.ofNat_toNat, BitVec.setWidth_eq] at this
    have := congrArg BitVec.toNat (add_left_cancel this)
    simp only [BitVec.toNat_ofNat] at this
    omega
  · simp only [low32, BitVec.toNat_setWidth, BitVec.toNat_add, BitVec.toNat_ofNat] at e
    omega

/-- Each byte of a list of cells with no address twice is held after the list is put. -/
theorem cellAt_foldl_of_nodup (cells l : List Host.Cell) (hn : (cells.map (·.1)).Nodup) (c : Host.Cell) (hc : c ∈ cells) :
    cellAt (cells.foldl (fun l c => cellPut l c.1 c.2) l) c.1 = some c.2 := by
  induction cells generalizing l with
  | nil => cases hc
  | cons d rest ih =>
    rw [List.map_cons, List.nodup_cons] at hn
    simp only [List.foldl_cons]
    rcases List.mem_cons.1 hc with rfl | hc
    · have key : ∀ (r : List Host.Cell) (m : List Host.Cell), c.1 ∉ r.map (·.1) →
          cellAt (r.foldl (fun l c => cellPut l c.1 c.2) m) c.1 = cellAt m c.1 := by
        intro r
        induction r with
        | nil => exact fun _ _ => rfl
        | cons e r ihr =>
          intro m hm
          simp only [List.map_cons, List.mem_cons, not_or] at hm
          rw [List.foldl_cons, ihr _ hm.2, cellAt_cellPut, if_neg hm.1]
      rw [key _ _ hn.1, cellAt_cellPut, if_pos rfl]
    · exact ih _ hn.2 hc

/-- What a speculative byte is after some stores: a byte not stored to is as before, one stored to is held. -/
theorem cellAt_foldl_cellPut (cells l : List Host.Cell) (a : Nat) :
    (a ∉ cells.map (·.1) → cellAt (cells.foldl (fun l c => cellPut l c.1 c.2) l) a = cellAt l a) ∧
    ((cellAt l a).isSome = true ∨ a ∈ cells.map (·.1) →
      (cellAt (cells.foldl (fun l c => cellPut l c.1 c.2) l) a).isSome = true) := by
  induction cells generalizing l with
  | nil => exact ⟨fun _ => rfl, fun h => by simpa using h⟩
  | cons c rest ih =>
    simp only [List.foldl_cons, List.map_cons, List.mem_cons, not_or]
    refine ⟨fun h => ?_, fun h => ?_⟩
    · rw [(ih _).1 h.2, cellAt_cellPut, if_neg h.1]
    · refine (ih _).2 ?_
      rw [cellAt_cellPut]
      rcases h with h | h | h
      · left; split <;> simp [h]
      · left; rw [if_pos h]; rfl
      · exact .inr h

theorem State.storeCells_of_transactional {s : State} (h : s.ts = tsT) (cells : List Host.Cell) :
    s.storeCells cells = s.storeTransactional cells := by
  unfold State.storeCells
  exact if_pos h

theorem State.storeCells_of_not_transactional {s : State} (h : s.ts ≠ tsT) (cells : List Host.Cell) :
    s.storeCells cells = s.storeNow cells := by
  unfold State.storeCells
  exact if_neg h

/-- What a store in Suspended state can do to the suspended transaction: doom it or note a cause; its data stay (R84, R166). -/
theorem State.selfConflict_frame (s : State) (addrs : List Nat) :
    ∃ tdoomed pending latent draws, s.selfConflict addrs =
      { s with tm := { s.tm with tdoomed := tdoomed, pending := pending, latent := latent }, draws := draws } ∧
      (s.tm.tdoomed = true → tdoomed = true) := by
  unfold State.selfConflict State.willFail State.mayFail
  simp only
  split
  · exact State.arise_frame s _
  · split
    · exact State.arise_frame s _
    · exact ⟨_, _, _, _, rfl, id⟩

/-- The speculative storage updates that a newer store leaves: none of its own bytes (R86). -/
theorem State.supersede_cellAt_of_mem (s : State) {addrs : List Nat} {a : Nat} (h : a ∈ addrs) :
    cellAt (s.supersede addrs).tm.txData a = none := by
  show cellAt (s.tm.txData.filter _) a = none
  induction s.tm.txData with
  | nil => rfl
  | cons c rest ih =>
    rw [List.filter_cons]
    split
    · rename_i hc
      have hne : a ≠ c.1 := by
        rintro rfl
        simp [h] at hc
      unfold cellAt
      rw [if_neg hne]
      exact ih
    · exact ih

/-- The speculative storage updates that a newer store leaves: those of every other byte (R86). -/
theorem State.supersede_cellAt_of_not_mem (s : State) {addrs : List Nat} {a : Nat} (h : a ∉ addrs) :
    cellAt (s.supersede addrs).tm.txData a = cellAt s.tm.txData a := by
  show cellAt (s.tm.txData.filter _) a = cellAt s.tm.txData a
  induction s.tm.txData with
  | nil => rfl
  | cons c rest ih =>
    rw [List.filter_cons]
    split
    · unfold cellAt
      rw [ih]
    · rename_i hc
      have hne : a ≠ c.1 := by
        rintro rfl
        simp [h] at hc
      rw [ih]
      conv_rhs => unfold cellAt
      rw [if_neg hne]

/-- Superseding keeps the addresses of the speculative storage updates rising. -/
theorem State.supersede_rise {s : State} (h : cellsRise s.tm.txData) (addrs : List Nat) :
    cellsRise (s.supersede addrs).tm.txData :=
  List.Pairwise.filter _ h

/-- A store in Suspended state, whole: the conflict with the transaction, the superseded bytes, and storage (R84, R86, R166). -/
theorem State.storeCells_of_suspended {s : State} (h : s.ts = tsS) (cells : List Host.Cell) :
    s.storeCells cells = { (s.selfConflict (cells.map (·.1))).supersede (cells.map (·.1)) with
      mem := (s.selfConflict (cells.map (·.1))).mem.writeCells cells } := by
  unfold State.storeCells State.storeNow
  rw [if_neg (by rw [h]; decide)]
  simp only [h, if_true]
  rfl

/-- What the facility notes of a load in Transactional state (R81, R221). -/
theorem State.noteLoad_of_transactional {s : State} (h : s.ts = tsT) (addrs : List Nat) :
    s.noteLoad addrs = { s with tm := { s.tm with
      readSet := if s.rot then s.tm.readSet else s.tm.readSet ++ (addrs.map fun a => ⟨a, s.nia⟩)
      rotReads := if s.rot then s.tm.rotReads ++ (addrs.map fun a => ⟨a, s.nia⟩) else s.tm.rotReads
      awaited := s.tm.awaited ++ s.awaitedBytes addrs } } := by
  have ha : s.active = true := by simp [State.active, h]
  unfold State.noteLoad State.noteRead
  rw [if_pos ha]
  cases hr : s.rot <;> simp [h]

/-- A normal transaction's tcheck waits for all its transactional loads (R221). -/
theorem State.awaitedBytes_of_normal {s : State} (h : s.ts = tsT) (hr : s.rot = false) (addrs : List Nat) :
    s.awaitedBytes addrs = addrs := by
  simp [State.awaitedBytes, State.awaitsLoad, h, hr]

/-- A load that accesses a location a normal transaction accessed before is waited for whole, in Suspended state too (R221). -/
theorem State.awaitedBytes_of_accessed {s : State} (hr : s.rot = false) {f : Foot} (hf : f ∈ s.tm.accessed) {addrs : List Nat}
    (h : f.addr ∈ addrs) : s.awaitedBytes addrs = addrs := by
  unfold State.awaitedBytes State.awaitsLoad
  rw [hr, if_pos]
  simp only [Bool.or_eq_true, List.any_eq_true]
  exact .inr ⟨f, hf, List.contains_iff_mem.2 h⟩

/-- A load detects nothing where no cause is certain (R54). -/
theorem State.detectOverwritten_of_none {s : State} (h : ∀ l, l ∈ s.tm.latent → l.certain = false) (addrs : List Nat) :
    s.detectOverwritten addrs = s := by
  refine State.settle_of_none fun l hl => ?_
  unfold Latent.overwrote
  rw [h l hl]
  split <;> rfl

/-- A load sees the transaction's own stores before failure, while the updates are held (R81 d). -/
theorem State.seesOwnStore_of_live {s : State} (h : s.ts = tsT) (hd : s.tm.tdoomed = false)
    (hu : s.tm.updatesDiscarded = false) (i : Nat) : s.seesOwnStore i = true := by
  unfold State.seesOwnStore State.active
  rw [h, hd, hu]
  rfl

theorem State.seesOwnStore_of_discarded {s : State} (h : s.tm.updatesDiscarded = true) (i : Nat) : s.seesOwnStore i = false := by
  unfold State.seesOwnStore
  rw [h]
  simp

@[simp] theorem State.loadBytes_length (s : State) (addrs : List Nat) : (s.loadBytes addrs).length = addrs.length := by
  simp [State.loadBytes]

/-- Where a load sees the own stores of all its bytes, or of none, it returns the byte of each. -/
theorem State.loadBytes_of_uniform {s : State} {own : Bool} (h : ∀ i, s.seesOwnStore i = own) (addrs : List Nat) :
    s.loadBytes addrs = addrs.map (s.loadByte own) := by
  simp only [State.loadBytes, h]
  conv_rhs => rw [← List.zipIdx_map_fst 0 addrs]
  rw [List.map_map]
  rfl

/-- Each byte a load returns is the transaction's own, if it stored one, or that of storage (R81 d). -/
theorem State.loadBytes_mem (s : State) {addrs : List Nat} {x : Byte × Nat} (h : x ∈ (s.loadBytes addrs).zip addrs) :
    x.1 = s.loadByte true x.2 ∨ x.1 = s.loadByte false x.2 := by
  obtain ⟨i, hi, rfl⟩ := List.getElem_of_mem h
  simp only [List.getElem_zip, State.loadBytes, List.getElem_map, List.getElem_zipIdx]
  cases s.seesOwnStore (0 + i)
  · exact .inr rfl
  · exact .inl rfl

/-! ### Register writes -/

/-- A write of a register a base instruction may write changes registers only. -/
theorem RegWrite.apply_frame (s : State) (w : RegWrite) :
    w.apply s = { s with regs := (w.apply s).regs, cr := (w.apply s).cr, xer := (w.apply s).xer } := by
  cases w <;> rfl

/-- What register writes leave in the registers follows from the registers before. -/
theorem RegWrite.apply_congr (s : State) (w : RegWrite) (t : State) :
    w.apply { t with regs := s.regs, cr := s.cr, xer := s.xer } =
      { t with regs := (w.apply s).regs, cr := (w.apply s).cr, xer := (w.apply s).xer } := by
  cases w <;> rfl

theorem State.writeRegs_congr (s : State) (ws : List RegWrite) (t : State) :
    ({ t with regs := s.regs, cr := s.cr, xer := s.xer } : State).writeRegs ws =
      { t with regs := (s.writeRegs ws).regs, cr := (s.writeRegs ws).cr, xer := (s.writeRegs ws).xer } := by
  unfold State.writeRegs
  induction ws generalizing s with
  | nil => rfl
  | cons w rest ih =>
    rw [List.foldl_cons, RegWrite.apply_congr s w, List.foldl_cons]
    exact ih (w.apply s)

theorem State.writeRegs_frame (s : State) (ws : List RegWrite) :
    s.writeRegs ws = { s with regs := (s.writeRegs ws).regs, cr := (s.writeRegs ws).cr, xer := (s.writeRegs ws).xer } := by
  unfold State.writeRegs
  induction ws generalizing s with
  | nil => rfl
  | cons w rest ih =>
    rw [List.foldl_cons, ih (w.apply s), RegWrite.apply_frame s w]

/-- Placing loaded values changes registers only. -/
theorem State.place_frame (s : State) (bytes : List Byte) (parts : List LoadPart) :
    s.place bytes parts = { s with regs := (s.place bytes parts).regs } := by
  unfold State.place
  generalize hv : (fun p : LoadPart => p.value s bytes) = v
  have key : ∀ t : State, parts.foldl (fun t p => t.setData (v p) p.target) t =
      { t with regs := (parts.foldl (fun t p => t.setData (v p) p.target) t).regs } := by
    induction parts with
    | nil => exact fun _ => rfl
    | cons p rest ih =>
      intro t
      rw [List.foldl_cons, ih]
      cases p.target <;> rfl
  subst hv
  exact key s

/-- The registers after a value is put in one follow from the registers before. -/
theorem State.setData_regs_congr {s t : State} (h : t.regs = s.regs) (v : BitVec 128) (r : DataReg) :
    (t.setData v r).regs = (s.setData v r).regs := by
  cases r <;> simp [State.setData, State.setGpr, State.setFpr, State.setVr, State.setVsr, h]

/-- The registers after loaded values are placed follow from the registers and the byte order before. -/
theorem State.place_congr {s t : State} (hr : t.regs = s.regs) (ho : t.byteOrder = s.byteOrder) (bytes : List Byte)
    (parts : List LoadPart) : (t.place bytes parts).regs = (s.place bytes parts).regs := by
  unfold State.place
  have hv : ∀ p : LoadPart, p.value t bytes = p.value s bytes := fun p => by
    simp only [LoadPart.value, State.dataOrder, ho]
  simp only [hv]
  have key : ∀ (v : LoadPart → BitVec 128) (s t : State), t.regs = s.regs →
      (parts.foldl (fun t p => t.setData (v p) p.target) t).regs = (parts.foldl (fun t p => t.setData (v p) p.target) s).regs := by
    intro v
    induction parts with
    | nil => exact fun _ _ h => h
    | cons p rest ih =>
      intro s t h
      exact ih _ _ (State.setData_regs_congr h _ _)
  exact key _ s t hr

/-! ### Interrupts -/

@[simp] theorem State.freeStatusInterrupt_ts (s : State) (k : InterruptKind) (a : Word) :
    (s.freeStatusInterrupt k a).ts = interruptTs s.ts := State.takeInterrupt_ts _ _ _ _
@[simp] theorem State.freeStatusInterrupt_tm (s : State) (k : InterruptKind) (a : Word) :
    (s.freeStatusInterrupt k a).tm = s.tm := rfl
@[simp] theorem State.freeStatusInterrupt_mem (s : State) (k : InterruptKind) (a : Word) :
    (s.freeStatusInterrupt k a).mem = s.mem := rfl
@[simp] theorem State.freeStatusInterrupt_power (s : State) (k : InterruptKind) (a : Word) :
    (s.freeStatusInterrupt k a).power = s.power := rfl

/-- An interrupt whose status is free writes only its two save registers among the special purpose registers. -/
theorem State.freeStatusInterrupt_sprs (s : State) (k : InterruptKind) (a : Word) :
    (s.freeStatusInterrupt k a).sprs =
      { s.sprs with
        srr0 := (s.freeStatusInterrupt k a).sprs.srr0
        srr1 := (s.freeStatusInterrupt k a).sprs.srr1
        hsrr0 := (s.freeStatusInterrupt k a).sprs.hsrr0
        hsrr1 := (s.freeStatusInterrupt k a).sprs.hsrr1 } := by
  unfold State.freeStatusInterrupt
  rw [State.takeInterrupt_sprs]
  rfl

theorem State.takeAsync_sprs (s : State) (i : AsyncInterrupt) :
    (s.takeAsync i).sprs =
      { s.sprs with
        srr0 := (s.takeAsync i).sprs.srr0
        srr1 := (s.takeAsync i).sprs.srr1
        hsrr0 := (s.takeAsync i).sprs.hsrr0
        hsrr1 := (s.takeAsync i).sprs.hsrr1 } := by
  unfold State.takeAsync
  exact State.freeStatusInterrupt_sprs _ _ _

@[simp] theorem State.takeAsync_ts (s : State) (i : AsyncInterrupt) : (s.takeAsync i).ts = interruptTs s.ts :=
  State.freeStatusInterrupt_ts _ _ _
@[simp] theorem State.takeAsync_mem (s : State) (i : AsyncInterrupt) : (s.takeAsync i).mem = s.mem := rfl

/-! ### Other processors -/

/-- All that an access of another processor can do to this thread: nothing, or a failure cause arises. -/
theorem State.externalConflict_cases (s : State) (who : OtherAgent) (st : Bool) (addrs : List Nat) (foot spec : List Foot) :
    s.externalConflict who st addrs foot spec = s ∨
      ∃ l, s.externalConflict who st addrs foot spec = s.tick.arise l := by
  unfold State.externalConflict State.willFail State.mayFail
  simp only
  split
  · exact .inl rfl
  · split
    · exact .inr ⟨_, rfl⟩
    · split
      · exact .inr ⟨_, rfl⟩
      · exact .inl rfl

/-- What a speculative operation of the thread may do to its transaction: nothing, or an uncertain cause (R169). -/
theorem State.mayFailOn_cases (s : State) (foot : List Foot) (c : ImpreciseCause) (addr : Nat) :
    s.mayFailOn foot c addr = s ∨ s.mayFailOn foot c addr = s.mayFail c (.bytes false [addr]) := by
  unfold State.mayFailOn
  split
  · exact .inr rfl
  · exact .inl rfl

/-- What another processor's fetch may do to the transaction: nothing, or an uncertain cause (R164 e). -/
theorem State.externalFetch_cases (s : State) (addrs : List Nat) :
    s.externalFetch addrs = s ∨ ∃ ia, s.externalFetch addrs = s.tick.mayFail ⟨.instructionFetchConflict, ia⟩ (.bytes false addrs) := by
  unfold State.externalFetch
  simp only
  split
  · exact .inl rfl
  · exact .inr ⟨_, rfl⟩

/-- mtmsr: Privileged Instruction in problem state, failure in Transactional state, else the MSR but for bits 29:31, with the Floating-Point
Enabled interrupt where it enables one (R162, R254, R323). -/
theorem State.moveToMsr_cases {s : State} {value : Word} {r : Result} (h : s.moveToMsr value = r) :
    let newMsr := putTsTm value (msrTsTm s.msr)
    let t := { s.complete with msr := newMsr }
    (s.mayRun .privileged = false ∧ r = .next s.privilegedInstruction) ∨
    (s.mayRun .privileged = true ∧
      ((s.ts = tsT ∧ r = s.failDisallowed) ∨
       (s.ts ≠ tsT ∧ s.fpEnabledBy newMsr = true ∧ r = .next (t.fpAtNext true)) ∨
       (s.ts ≠ tsT ∧ s.fpEnabledBy newMsr = false ∧ r = .next t))) := by
  rcases State.guardLevel_cases h with ⟨hp, h⟩ | ⟨hp, h⟩
  · refine .inr ⟨hp, ?_⟩
    split at h
    · exact .inl ⟨‹_›, h⟩
    · simp only at h
      split at h
      · exact .inr (.inl ⟨‹_›, ‹_›, h⟩)
      · exact .inr (.inr ⟨‹_›, Bool.eq_false_iff.2 ‹_›, h⟩)
  · exact .inl ⟨hp, h⟩

/-- A footprint entry in the block of an address is hit by an access of it. -/
theorem touches_of_mem {foot : List Foot} {f : Foot} (hf : f ∈ foot) {addrs : List Nat} {a : Nat} (ha : a ∈ addrs)
    (h : a / Config.blockSize = f.addr / Config.blockSize) : touches foot addrs = true := by
  unfold touches
  rw [List.any_eq_true]
  exact ⟨f, hf, List.any_eq_true.2 ⟨a, ha, by simp [sameBlock, h]⟩⟩

end Sys2Proof.Machine
end

