-- ==== Sys2Proof/Laws/Bytes.lean ====
section
/-!
SUPPORT. The bytes of a datum and the number they make.
-/

namespace Sys2Proof.Machine

/-- A most significant byte in front. -/
theorem numberOf_cons (b : Byte) (l : List Byte) : numberOf (b :: l) = b.toNat * 256 ^ l.length + numberOf l := by
  have from_start : ∀ (l : List Byte) (x : Nat), l.foldl (fun n b => n * 256 + b.toNat) x = x * 256 ^ l.length + numberOf l := by
    intro l
    unfold numberOf
    induction l with
    | nil => simp
    | cons b r ih =>
      intro x
      simp only [List.foldl_cons, List.length_cons]
      rw [ih, ih (0 * 256 + b.toNat)]
      ring
  show List.foldl _ (0 * 256 + b.toNat) l = _
  rw [from_start, Nat.zero_mul, Nat.zero_add]

theorem numberOf_lt (l : List Byte) : numberOf l < 256 ^ l.length := by
  induction l with
  | nil => simp [numberOf]
  | cons b r ih =>
    rw [numberOf_cons, List.length_cons, pow_succ]
    have := b.isLt
    nlinarith

/-- At most 16 bytes joined are the number they make. -/
theorem joinBytes_toNat (l : List Byte) (h : l.length ≤ 16) : (joinBytes l).toNat = numberOf l := by
  have key : ∀ (l : List Byte) (v : BitVec 128) (x : Nat), v.toNat = x → x * 256 ^ l.length + 256 ^ l.length ≤ 2 ^ 128 →
      (l.foldl (fun (v : BitVec 128) (b : Byte) => (v <<< 8) ||| b.setWidth 128) v).toNat =
        l.foldl (fun n b => n * 256 + b.toNat) x := by
    intro l
    induction l with
    | nil => intro v x h _; exact h
    | cons b r ih =>
      intro v x hx hb
      simp only [List.foldl_cons]
      have hbl := b.isLt
      rw [List.length_cons, pow_succ] at hb
      have hpos : 0 < 256 ^ r.length := Nat.pow_pos (by decide)
      have hx2 : x * 256 + 256 ≤ 2 ^ 128 := by nlinarith
      apply ih
      · rw [BitVec.toNat_or, BitVec.toNat_shiftLeft, BitVec.toNat_setWidth, hx, Nat.shiftLeft_eq,
          Nat.mod_eq_of_lt (a := x * 2 ^ 8) (by omega), Nat.mod_eq_of_lt (a := b.toNat) (by omega),
          show x * 2 ^ 8 = 2 ^ 8 * x by ring, ← Nat.two_pow_add_eq_or_of_lt (by omega)]
        ring
      · have : b.toNat + 1 ≤ 256 := by omega
        nlinarith
  unfold joinBytes numberOf
  refine key _ _ _ rfl ?_
  have : (256 : Nat) ^ l.length ≤ 256 ^ 16 := Nat.pow_le_pow_right (by decide) h
  norm_num at this ⊢
  exact this

/-- The low `n` bytes of a value make its remainder. -/
theorem numberOf_splitBytes (v : BitVec 128) (n : Nat) : numberOf (splitBytes v n) = v.toNat % 2 ^ (8 * n) := by
  have split_succ : ∀ n, splitBytes v (n + 1) = v.extractLsb' (8 * n) 8 :: splitBytes v n := by
    intro n
    unfold splitBytes
    rw [List.range_succ_eq_map, List.map_cons, List.map_map]
    congr 1
    refine List.map_congr_left fun i _ => ?_
    show v.extractLsb' (8 * (n + 1 - 1 - (i + 1))) 8 = _
    congr 2
    omega
  induction n with
  | zero => simp [splitBytes, numberOf, Nat.mod_one]
  | succ n ih =>
    have hl : (splitBytes v n).length = n := by simp [splitBytes]
    rw [split_succ, numberOf_cons, ih, BitVec.extractLsb'_toNat, Nat.shiftRight_eq_div_pow, hl,
      show (256 : Nat) ^ n = 2 ^ (8 * n) by rw [show (256 : Nat) = 2 ^ 8 by norm_num, ← pow_mul],
      show 8 * (n + 1) = 8 * n + 8 by ring, pow_add, Nat.mod_mul]
    ring

@[simp] theorem storageOrder_storageOrder (o : ByteOrder) (l : List Byte) : storageOrder o (storageOrder o l) = l := by
  cases o <;> simp [storageOrder]

end Sys2Proof.Machine
end

