-- ==== Sys2Proof/Laws/Decode.lean ====
section
/-!
SUPPORT. Laws of the encoding: a field placed in a word, taken out of it, and masked.
-/

namespace Sys2Proof

open Sys2Proof.Machine

/-- The bits of a placed field. -/
theorem placeField_getLsbD {n : Nat} (v : BitVec n) (sh k : Nat) (hk : k < 32) :
    (placeField v sh).getLsbD k = (decide (sh ≤ k) && v.getLsbD (k - sh)) := by
  simp only [placeField, BitVec.getLsbD_shiftLeft, BitVec.getLsbD_setWidth, hk, decide_true, Bool.true_and]
  by_cases h : sh ≤ k
  · have h1 : ¬ k < sh := by omega
    have h2 : k - sh < 32 := by omega
    simp [h, h1, h2]
  · have h1 : k < sh := by omega
    simp [h, h1]

/-- A placed field meets no mask that is zero at its place. -/
theorem placeField_and {n : Nat} (v : BitVec n) (sh : Nat) (m : Word32)
    (h : ∀ k : Fin 32, sh ≤ k.val → k.val < sh + n → m.getLsbD k.val = false) : placeField v sh &&& m = 0 := by
  apply BitVec.eq_of_getLsbD_eq
  intro k hk
  rw [BitVec.getLsbD_and, placeField_getLsbD _ _ _ hk]
  by_cases h1 : sh ≤ k
  · by_cases h2 : k < sh + n
    · rw [h ⟨k, hk⟩ h1 h2]; simp
    · rw [BitVec.getLsbD_of_ge v _ (by omega)]; simp
  · simp [h1]

/-- A placed field is what its place holds. -/
theorem extract_placeField {n : Nat} (v : BitVec n) (sh : Nat) (h : sh + n ≤ 32) :
    (placeField v sh).extractLsb' sh n = v := by
  apply BitVec.eq_of_getLsbD_eq
  intro k hk
  rw [BitVec.getLsbD_extractLsb', placeField_getLsbD _ _ _ (by omega)]
  simp [hk]

/-- A placed field leaves zeros at every other place. -/
theorem extract_placeField_of_disjoint {n : Nat} (v : BitVec n) (sh a m : Nat) (ha : a + m ≤ 32)
    (h : a + m ≤ sh ∨ sh + n ≤ a) : (placeField v sh).extractLsb' a m = 0 := by
  apply BitVec.eq_of_getLsbD_eq
  intro k hk
  rw [BitVec.getLsbD_extractLsb', placeField_getLsbD _ _ _ (by omega)]
  by_cases h1 : sh ≤ a + k
  · rw [BitVec.getLsbD_of_ge v _ (by omega)]; simp
  · simp [h1]

/-- The fields of a word that is the OR of two are the OR of the fields. -/
theorem extract_or (x y : Word32) (a m : Nat) : (x ||| y).extractLsb' a m = x.extractLsb' a m ||| y.extractLsb' a m := by
  apply BitVec.eq_of_getLsbD_eq
  intro k hk
  simp only [BitVec.getLsbD_or, BitVec.getLsbD_extractLsb', hk, decide_true, Bool.true_and]

/-- A row is found by its `match` value: the values are distinct (R129). -/
theorem findOpcode_of_match (w : Word32) (o : Opcode) (h : w &&& opcodeMask = o.matchBits) : findOpcode w = some o := by
  unfold findOpcode
  rw [h]
  cases o <;> decide

/-- A word whose row is known and whose reserved bits are zero decodes to that row's instruction. -/
theorem decodeWord_of_match (w : Word32) (o : Opcode) (h : w &&& opcodeMask = o.matchBits) (hr : w &&& o.reservedBits = 0) :
    decodeWord w = .ok (o.operands w) := by
  simp [decodeWord, findOpcode_of_match w o h, hr]

/-- The bytes of a word, joined again in the same byte order. -/
theorem bytes_of_word (order : ByteOrder) (w : Word32) :
    decodeBytes order (wordToBytes order w) = decodeWord w := by
  have h : w.extractLsb' 24 8 ++ w.extractLsb' 16 8 ++ w.extractLsb' 8 8 ++ w.extractLsb' 0 8 = w := by
    apply BitVec.eq_of_getLsbD_eq
    intro k hk
    simp only [BitVec.getLsbD_append, BitVec.getLsbD_extractLsb']
    by_cases h1 : k < 8
    · simp [h1]
    · by_cases h2 : k < 16
      · have e : 8 + (k - 8) = k := by omega
        simp [h1, show k - 8 < 8 by omega, e]
      · by_cases h3 : k < 24
        · have e : 16 + (k - 8 - 8) = k := by omega
          simp [h1, show ¬ k - 8 < 8 by omega, show k - 8 - 8 < 8 by omega, e]
        · have e : 24 + (k - 8 - 8 - 8) = k := by omega
          simp [h1, show ¬ k - 8 < 8 by omega, show ¬ k - 8 - 8 < 8 by omega, show k - 8 - 8 - 8 < 8 by omega, e]
  cases order
  · exact congrArg decodeWord h
  · exact congrArg decodeWord h

end Sys2Proof
end

