-- ==== Sys2Proof/Laws/PerInstr.lean ====
section
/-!
SUPPORT. Statements about every instruction, one lemma for each.
-/

namespace Sys2Proof.Laws

/-- The opcode bits of an encoding are those of the row: no operand reaches into them. -/
def EncodeFixed.Statement (i : Instr) : Prop := encode i &&& opcodeMask = i.opcode.matchBits

/-- The reserved bits of an encoding are zero. -/
def EncodeReserved.Statement (i : Instr) : Prop := encode i &&& i.opcode.reservedBits = 0

theorem EncodeFixed.tbegin (a : Bool) (r : Bool) : EncodeFixed.Statement (.tbegin a r) := by
  simp only [EncodeFixed.Statement, encode, Instr.opcode, Instr.operandBits, BitVec.and_or_distrib_right]
  rw [placeField_and _ _ _ (by decide)]
  rw [placeField_and _ _ _ (by decide)]
  decide

theorem EncodeFixed.tend (a : Bool) : EncodeFixed.Statement (.tend a) := by
  simp only [EncodeFixed.Statement, encode, Instr.opcode, Instr.operandBits, BitVec.and_or_distrib_right]
  rw [placeField_and _ _ _ (by decide)]
  decide

theorem EncodeFixed.tabort (ra : RegNum) : EncodeFixed.Statement (.tabort ra) := by
  simp only [EncodeFixed.Statement, encode, Instr.opcode, Instr.operandBits, BitVec.and_or_distrib_right]
  rw [placeField_and _ _ _ (by decide)]
  decide

theorem EncodeFixed.tabortwc (cond : BitVec 5) (ra : RegNum) (rb : RegNum) : EncodeFixed.Statement (.tabortwc cond ra rb) := by
  simp only [EncodeFixed.Statement, encode, Instr.opcode, Instr.operandBits, BitVec.and_or_distrib_right]
  rw [placeField_and _ _ _ (by decide)]
  rw [placeField_and _ _ _ (by decide)]
  rw [placeField_and _ _ _ (by decide)]
  decide

theorem EncodeFixed.tabortwci (cond : BitVec 5) (ra : RegNum) (si : Int) : EncodeFixed.Statement (.tabortwci cond ra si) := by
  simp only [EncodeFixed.Statement, encode, Instr.opcode, Instr.operandBits, BitVec.and_or_distrib_right]
  rw [placeField_and _ _ _ (by decide)]
  rw [placeField_and _ _ _ (by decide)]
  rw [placeField_and _ _ _ (by decide)]
  decide

theorem EncodeFixed.tabortdc (cond : BitVec 5) (ra : RegNum) (rb : RegNum) : EncodeFixed.Statement (.tabortdc cond ra rb) := by
  simp only [EncodeFixed.Statement, encode, Instr.opcode, Instr.operandBits, BitVec.and_or_distrib_right]
  rw [placeField_and _ _ _ (by decide)]
  rw [placeField_and _ _ _ (by decide)]
  rw [placeField_and _ _ _ (by decide)]
  decide

theorem EncodeFixed.tabortdci (cond : BitVec 5) (ra : RegNum) (si : Int) : EncodeFixed.Statement (.tabortdci cond ra si) := by
  simp only [EncodeFixed.Statement, encode, Instr.opcode, Instr.operandBits, BitVec.and_or_distrib_right]
  rw [placeField_and _ _ _ (by decide)]
  rw [placeField_and _ _ _ (by decide)]
  rw [placeField_and _ _ _ (by decide)]
  decide

theorem EncodeFixed.tsr (l : Bool) : EncodeFixed.Statement (.tsr l) := by
  simp only [EncodeFixed.Statement, encode, Instr.opcode, Instr.operandBits, BitVec.and_or_distrib_right]
  rw [placeField_and _ _ _ (by decide)]
  decide

theorem EncodeFixed.tcheck (bf : BitVec 3) : EncodeFixed.Statement (.tcheck bf) := by
  simp only [EncodeFixed.Statement, encode, Instr.opcode, Instr.operandBits, BitVec.and_or_distrib_right]
  rw [placeField_and _ _ _ (by decide)]
  decide

theorem EncodeFixed.treclaim (ra : RegNum) : EncodeFixed.Statement (.treclaim ra) := by
  simp only [EncodeFixed.Statement, encode, Instr.opcode, Instr.operandBits, BitVec.and_or_distrib_right]
  rw [placeField_and _ _ _ (by decide)]
  decide

theorem EncodeFixed.trechkpt : EncodeFixed.Statement (.trechkpt) := by
  unfold EncodeFixed.Statement; decide

theorem EncodeFixed.mfspr (rt : RegNum) (spr : Nat) : EncodeFixed.Statement (.mfspr rt spr) := by
  simp only [EncodeFixed.Statement, encode, Instr.opcode, Instr.operandBits, placeSpr, BitVec.and_or_distrib_right]
  rw [placeField_and _ _ _ (by decide)]
  rw [placeField_and _ _ _ (by decide)]
  rw [placeField_and _ _ _ (by decide)]
  decide

theorem EncodeFixed.mtspr (spr : Nat) (rs : RegNum) : EncodeFixed.Statement (.mtspr spr rs) := by
  simp only [EncodeFixed.Statement, encode, Instr.opcode, Instr.operandBits, placeSpr, BitVec.and_or_distrib_right]
  rw [placeField_and _ _ _ (by decide)]
  rw [placeField_and _ _ _ (by decide)]
  rw [placeField_and _ _ _ (by decide)]
  decide

theorem EncodeFixed.mtmsrd (rs : RegNum) (l : Bool) : EncodeFixed.Statement (.mtmsrd rs l) := by
  simp only [EncodeFixed.Statement, encode, Instr.opcode, Instr.operandBits, BitVec.and_or_distrib_right]
  rw [placeField_and _ _ _ (by decide)]
  rw [placeField_and _ _ _ (by decide)]
  decide

theorem EncodeFixed.rfid : EncodeFixed.Statement (.rfid) := by
  unfold EncodeFixed.Statement; decide

theorem EncodeFixed.hrfid : EncodeFixed.Statement (.hrfid) := by
  unfold EncodeFixed.Statement; decide

theorem EncodeFixed.doze : EncodeFixed.Statement (.doze) := by
  unfold EncodeFixed.Statement; decide

theorem EncodeFixed.nap : EncodeFixed.Statement (.nap) := by
  unfold EncodeFixed.Statement; decide

theorem EncodeFixed.sleep : EncodeFixed.Statement (.sleep) := by
  unfold EncodeFixed.Statement; decide

theorem EncodeFixed.rvwinkle : EncodeFixed.Statement (.rvwinkle) := by
  unfold EncodeFixed.Statement; decide

theorem EncodeReserved.tbegin (a : Bool) (r : Bool) : EncodeReserved.Statement (.tbegin a r) := by
  simp only [EncodeReserved.Statement, encode, Instr.opcode, Instr.operandBits, BitVec.and_or_distrib_right]
  rw [placeField_and _ _ _ (by decide)]
  rw [placeField_and _ _ _ (by decide)]
  decide

theorem EncodeReserved.tend (a : Bool) : EncodeReserved.Statement (.tend a) := by
  simp only [EncodeReserved.Statement, encode, Instr.opcode, Instr.operandBits, BitVec.and_or_distrib_right]
  rw [placeField_and _ _ _ (by decide)]
  decide

theorem EncodeReserved.tabort (ra : RegNum) : EncodeReserved.Statement (.tabort ra) := by
  simp only [EncodeReserved.Statement, encode, Instr.opcode, Instr.operandBits, BitVec.and_or_distrib_right]
  rw [placeField_and _ _ _ (by decide)]
  decide

theorem EncodeReserved.tabortwc (cond : BitVec 5) (ra : RegNum) (rb : RegNum) : EncodeReserved.Statement (.tabortwc cond ra rb) := by
  simp only [EncodeReserved.Statement, encode, Instr.opcode, Instr.operandBits, BitVec.and_or_distrib_right]
  rw [placeField_and _ _ _ (by decide)]
  rw [placeField_and _ _ _ (by decide)]
  rw [placeField_and _ _ _ (by decide)]
  decide

theorem EncodeReserved.tabortwci (cond : BitVec 5) (ra : RegNum) (si : Int) : EncodeReserved.Statement (.tabortwci cond ra si) := by
  simp only [EncodeReserved.Statement, encode, Instr.opcode, Instr.operandBits, BitVec.and_or_distrib_right]
  rw [placeField_and _ _ _ (by decide)]
  rw [placeField_and _ _ _ (by decide)]
  rw [placeField_and _ _ _ (by decide)]
  decide

theorem EncodeReserved.tabortdc (cond : BitVec 5) (ra : RegNum) (rb : RegNum) : EncodeReserved.Statement (.tabortdc cond ra rb) := by
  simp only [EncodeReserved.Statement, encode, Instr.opcode, Instr.operandBits, BitVec.and_or_distrib_right]
  rw [placeField_and _ _ _ (by decide)]
  rw [placeField_and _ _ _ (by decide)]
  rw [placeField_and _ _ _ (by decide)]
  decide

theorem EncodeReserved.tabortdci (cond : BitVec 5) (ra : RegNum) (si : Int) : EncodeReserved.Statement (.tabortdci cond ra si) := by
  simp only [EncodeReserved.Statement, encode, Instr.opcode, Instr.operandBits, BitVec.and_or_distrib_right]
  rw [placeField_and _ _ _ (by decide)]
  rw [placeField_and _ _ _ (by decide)]
  rw [placeField_and _ _ _ (by decide)]
  decide

theorem EncodeReserved.tsr (l : Bool) : EncodeReserved.Statement (.tsr l) := by
  simp only [EncodeReserved.Statement, encode, Instr.opcode, Instr.operandBits, BitVec.and_or_distrib_right]
  rw [placeField_and _ _ _ (by decide)]
  decide

theorem EncodeReserved.tcheck (bf : BitVec 3) : EncodeReserved.Statement (.tcheck bf) := by
  simp only [EncodeReserved.Statement, encode, Instr.opcode, Instr.operandBits, BitVec.and_or_distrib_right]
  rw [placeField_and _ _ _ (by decide)]
  decide

theorem EncodeReserved.treclaim (ra : RegNum) : EncodeReserved.Statement (.treclaim ra) := by
  simp only [EncodeReserved.Statement, encode, Instr.opcode, Instr.operandBits, BitVec.and_or_distrib_right]
  rw [placeField_and _ _ _ (by decide)]
  decide

theorem EncodeReserved.trechkpt : EncodeReserved.Statement (.trechkpt) := by
  unfold EncodeReserved.Statement; decide

theorem EncodeReserved.mfspr (rt : RegNum) (spr : Nat) : EncodeReserved.Statement (.mfspr rt spr) := by
  simp only [EncodeReserved.Statement, encode, Instr.opcode, Instr.operandBits, placeSpr, BitVec.and_or_distrib_right]
  rw [placeField_and _ _ _ (by decide)]
  rw [placeField_and _ _ _ (by decide)]
  rw [placeField_and _ _ _ (by decide)]
  decide

theorem EncodeReserved.mtspr (spr : Nat) (rs : RegNum) : EncodeReserved.Statement (.mtspr spr rs) := by
  simp only [EncodeReserved.Statement, encode, Instr.opcode, Instr.operandBits, placeSpr, BitVec.and_or_distrib_right]
  rw [placeField_and _ _ _ (by decide)]
  rw [placeField_and _ _ _ (by decide)]
  rw [placeField_and _ _ _ (by decide)]
  decide

theorem EncodeReserved.mtmsrd (rs : RegNum) (l : Bool) : EncodeReserved.Statement (.mtmsrd rs l) := by
  simp only [EncodeReserved.Statement, encode, Instr.opcode, Instr.operandBits, BitVec.and_or_distrib_right]
  rw [placeField_and _ _ _ (by decide)]
  rw [placeField_and _ _ _ (by decide)]
  decide

theorem EncodeReserved.rfid : EncodeReserved.Statement (.rfid) := by
  unfold EncodeReserved.Statement; decide

theorem EncodeReserved.hrfid : EncodeReserved.Statement (.hrfid) := by
  unfold EncodeReserved.Statement; decide

theorem EncodeReserved.doze : EncodeReserved.Statement (.doze) := by
  unfold EncodeReserved.Statement; decide

theorem EncodeReserved.nap : EncodeReserved.Statement (.nap) := by
  unfold EncodeReserved.Statement; decide

theorem EncodeReserved.sleep : EncodeReserved.Statement (.sleep) := by
  unfold EncodeReserved.Statement; decide

theorem EncodeReserved.rvwinkle : EncodeReserved.Statement (.rvwinkle) := by
  unfold EncodeReserved.Statement; decide

end Sys2Proof.Laws
end

