-- ==== Sys2Proof/Laws/Step.lean ====
section
/-!
SUPPORT. What a boundary can do, said once (40_tm_states_failure.md rule R184).
-/

namespace Sys2Proof.Machine

/-- Where no interrupt is pending: failure handling of a transaction in Transactional state, or the instruction. -/
theorem State.runOrHandle_cases {s : State} {b : Boundary} {r : Result} (h : s.runOrHandle b = r) :
    (s.ts = tsT ∧ r = s.handlePending) ∨ r = s.runInstruction b := by
  unfold State.runOrHandle at h
  split at h
  · rename_i hc
    refine .inl ⟨?_, h.symm⟩
    unfold State.agentHandles at hc
    by_contra ht
    simp [ht] at hc
  · exact .inr h.symm

/-- Where no Floating-Point Enabled interrupt is taken: an enabled asynchronous interrupt, failure handling in Transactional state, or the
instruction (U24). -/
theorem State.proceed_cases {s : State} {b : Boundary} {r : Result} (h : s.proceed b = r) :
    (∃ i, s.nextInterrupt = some i ∧ r = .next (s.takeAsync i)) ∨ (s.ts = tsT ∧ r = s.handlePending) ∨
      (s.nextInterrupt = none ∧ r = s.runInstruction b) := by
  unfold State.proceed at h
  split at h
  · split at h
    · rename_i hc
      exact .inr (.inl ⟨by unfold State.agentHandles at hc; by_contra ht; simp [ht] at hc, h.symm⟩)
    · exact .inl ⟨_, ‹_›, h.symm⟩
  · rcases State.runOrHandle_cases h with h | h
    · exact .inr (.inl h)
    · exact .inr (.inr ⟨‹_›, h⟩)

/-- With a Floating-Point Enabled Exception due: its interrupt, or, only where it can wait, what would happen without it (R200, R285). -/
theorem State.fpBoundary_cases {s : State} {b : Boundary} {r : Result} (h : s.fpBoundary b = r) :
    r = .next s.tick.fpBetween ∨ (s.fpMustBeTaken (s.tick.proceed b) = false ∧ r = s.tick.proceed b) := by
  unfold State.fpBoundary at h
  simp only at h
  split at h
  · exact .inl h.symm
  · rename_i hw
    simp only [Bool.or_eq_true, not_or, Bool.not_eq_true] at hw
    exact .inr ⟨hw.1, h.symm⟩

/-- What a boundary does: asleep, a step of the power-saving level; else, after the failure agent, a due Floating-Point Enabled interrupt has its
turn; else the instruction, failure handling or an asynchronous interrupt. -/
theorem State.atBoundary_cases {s : State} {b : Boundary} {r : Result} (h : s.atBoundary b = r) :
    (s.power ≠ .running ∧ r = .next s.powerSavingStep) ∨
    (s.power = .running ∧ (s.agent b.agent).fpDue = true ∧ r = (s.agent b.agent).fpBoundary b) ∨
    (s.power = .running ∧ (s.agent b.agent).fpDue = false ∧ r = (s.agent b.agent).proceed b) := by
  unfold State.atBoundary at h
  split at h
  · rename_i hp
    exact .inl ⟨by simpa using hp, h.symm⟩
  · rename_i hp
    have hp : s.power = .running := by simpa using hp
    simp only at h
    split at h
    · exact .inr (.inl ⟨hp, ‹_›, h.symm⟩)
    · exact .inr (.inr ⟨hp, Bool.eq_false_iff.2 ‹_›, h.symm⟩)

end Sys2Proof.Machine
end

