-- ==== Sys2Proof/Tests/Slice0.lean ====
section
/-!
SUPPORT. Tests of the model: well-formedness, decoding of words written out from the spec, one instruction each on a small state with
the values of spec/95_test_vectors.md, and, for every statement with hypotheses, a state that meets them.
-/

namespace Sys2Proof.Tests

open Sys2Proof Sys2Proof.Machine

/-! ### Ill-formed instructions are refused -/

theorem test_si_16_refused : (Instr.tabortwci 4 6 16).wellFormed = false := by decide
theorem test_si_minus_17_refused : (Instr.tabortwci 4 6 (-17)).wellFormed = false := by decide
theorem test_si_16_refused_doubleword : (Instr.tabortdci 4 6 16).wellFormed = false := by decide
theorem test_si_minus_17_refused_doubleword : (Instr.tabortdci 4 6 (-17)).wellFormed = false := by decide
theorem test_spr_1024_refused_read : (Instr.mfspr 3 1024).wellFormed = false := by decide
theorem test_spr_1024_refused_write : (Instr.mtspr 1024 3).wellFormed = false := by decide
theorem test_bounds_accepted :
    (Instr.tabortwci 4 6 15).wellFormed = true ∧ (Instr.tabortdci 4 6 (-16)).wellFormed = true ∧
      (Instr.mfspr 3 1023).wellFormed = true ∧ (Instr.mtspr 0 3).wellFormed = true := by decide

/-! ### Decoding: the words of R134 and of the vectors. A word with its fields is written from the figure, field by field. -/

theorem test_decode_tbegin : decodeWord (31#6 ++ 0#1 ++ 0#3 ++ 1#1 ++ 0#5 ++ 0#5 ++ 654#10 ++ 1#1) = .ok (.tbegin false true) := by
  decide
theorem test_decode_tbegin_plain : decodeWord 0x7C00051D = .ok (.tbegin false false) := by decide
theorem test_decode_tbegin_a : decodeWord 0x7E00051D = .ok (.tbegin true false) := by decide
theorem test_decode_tend : decodeWord 0x7C00055D = .ok (.tend false) := by decide
theorem test_decode_tendall : decodeWord (31#6 ++ 1#1 ++ 0#4 ++ 0#5 ++ 0#5 ++ 686#10 ++ 1#1) = .ok (.tend true) := by decide
theorem test_decode_tabort : decodeWord (31#6 ++ 0#5 ++ 5#5 ++ 0#5 ++ 910#10 ++ 1#1) = .ok (.tabort 5) := by decide
theorem test_decode_tabortwc : decodeWord (31#6 ++ 4#5 ++ 3#5 ++ 4#5 ++ 782#10 ++ 1#1) = .ok (.tabortwc 4 3 4) := by decide
theorem test_decode_tabortwci : decodeWord 0x7C86069D = .ok (.tabortwci 4 6 0) := by decide
theorem test_decode_tabortwci_negative : decodeWord 0x7C46FE9D = .ok (.tabortwci 2 6 (-1)) := by decide
theorem test_decode_tabortdc : decodeWord 0x7C43265D = .ok (.tabortdc 2 3 4) := by decide
theorem test_decode_tabortdci : decodeWord (31#6 ++ 16#5 ++ 3#5 ++ 0b11111#5 ++ 878#10 ++ 1#1) = .ok (.tabortdci 16 3 (-1)) := by
  decide
theorem test_decode_tabortdci_15 : decodeWord 0x7C877EDD = .ok (.tabortdci 4 7 15) := by decide
theorem test_decode_tsr : decodeWord (31#6 ++ 0#4 ++ 1#1 ++ 0#5 ++ 0#5 ++ 750#10 ++ 1#1) = .ok (.tsr true) := by decide
theorem test_decode_tsuspend : decodeWord 0x7C0005DD = .ok (.tsr false) := by decide
theorem test_decode_tcheck : decodeWord (31#6 ++ 7#3 ++ 0#2 ++ 0#5 ++ 0#5 ++ 718#10 ++ 0#1) = .ok (.tcheck 7) := by decide
theorem test_decode_treclaim : decodeWord (31#6 ++ 0#5 ++ 3#5 ++ 0#5 ++ 942#10 ++ 1#1) = .ok (.treclaim 3) := by decide
theorem test_decode_trechkpt : decodeWord 0x7C0007DD = .ok .trechkpt := by decide
theorem test_decode_mfspr : decodeWord (31#6 ++ 4#5 ++ 0b00011#5 ++ 0b00100#5 ++ 339#10 ++ 0#1) = .ok (.mfspr 4 131) := by decide
theorem test_decode_mtspr : decodeWord 0x7C6323A6 = .ok (.mtspr 131 3) := by decide
theorem test_decode_mtspr_ctr : decodeWord (31#6 ++ 3#5 ++ 0b01001#5 ++ 0#5 ++ 467#10 ++ 0#1) = .ok (.mtspr 9 3) := by decide
theorem test_decode_mtmsrd : decodeWord (31#6 ++ 3#5 ++ 0#4 ++ 1#1 ++ 0#5 ++ 178#10 ++ 0#1) = .ok (.mtmsrd 3 true) := by decide
theorem test_decode_rfid : decodeWord (19#6 ++ 0#5 ++ 0#5 ++ 0#5 ++ 18#10 ++ 0#1) = .ok .rfid := by decide
theorem test_decode_hrfid : decodeWord 0x4C000224 = .ok .hrfid := by decide
theorem test_decode_doze : decodeWord (19#6 ++ 0#5 ++ 0#5 ++ 0#5 ++ 402#10 ++ 0#1) = .ok .doze := by decide
theorem test_decode_nap : decodeWord 0x4C000364 = .ok .nap := by decide
theorem test_decode_sleep : decodeWord 0x4C0003A4 = .ok .sleep := by decide
theorem test_decode_rvwinkle : decodeWord 0x4C0003E4 = .ok .rvwinkle := by decide
/-- A word of the base architecture (addi) is not of the table. -/
theorem test_decode_addi : decodeWord 0x38600001 = .error .notInOpcodeTable := by decide
/-- A reserved field that is not zero: bit 7 of tbegin., bit 31 of tcheck (R125). -/
theorem test_decode_reserved :
    decodeWord 0x7D00051D = .error .reservedField ∧ decodeWord 0x7C00059D = .error .reservedField := by decide
/-- A dotted TM instruction's word with bit 31 = 0: tend. (R132). -/
theorem test_decode_undefined : decodeWord 0x7C00055C = .error .undefinedEncoding := by decide
/-- The bytes of a little-endian thread are the word's in reverse. -/
theorem test_decode_little_endian : decodeBytes .little [0x1D, 0x05, 0x05, 0x7C] = decodeWord 0x7C05051D := by decide
theorem test_decode_short : decodeBytes .big [0x7C, 0x00] = .error .tooShort := by decide
theorem test_table_word : decodeTableWord 32 0x7C03075D = some (.treclaim 3) := by decide

/-! ### Small states -/

/-- A thread with an MSR and a next instruction address. -/
def thread (msr nia : Word) : State := { State.reset with msr := msr, nia := nia }

/-- Problem state with TM, 64-bit, in the transaction state of `m`: 1 N1, 3 S1, 5 T1. -/
def user (m : Word) (nia : Word) : State :=
  { thread (0x8000000000005002 ||| (m <<< 32)) nia with controls := { Controls.zero with hfscrTm := true, lpes1 := true } }

/-- Privileged state that is not hypervisor state, with the same. -/
def priv (m : Word) (nia : Word) : State :=
  { thread (0x8000000000001002 ||| (m <<< 32)) nia with controls := { Controls.zero with hfscrTm := true, lpes1 := true } }

/-- Hypervisor state, with the same. -/
def hyp (m : Word) (nia : Word) : State :=
  { thread (0x9000000000001002 ||| (m <<< 32)) nia with controls := { Controls.zero with hfscrTm := true, lpes1 := true } }

/-- A checkpoint with 7 in GPR 5, 0x44444444 in the CR. -/
def saved : Checkpoint := ⟨(State.reset.setGpr 5 7).regs, 0x44444444, 0⟩

/-- The thread with a transaction of one level that has stored 0x33 at 0x2000, whose handler is at 0x1004. -/
def inTransaction (s : State) : State :=
  { s with
    sprs := { s.sprs with texasr := 1, tfhar := 0x1004 }
    tm := { Facility.idle with
      checkpoint := some saved, txData := [(0x2000, 0x33)], writeSet := [⟨0x2000, 0x1008⟩], readSet := [⟨0x3000, 0x100C⟩] } }

/-- The thread with another TEXASR. -/
def withTexasr (s : State) (x : Word) : State := { s with sprs := { s.sprs with texasr := x } }

/-- A doomed transaction. -/
def doomed (s : State) : State := { s with tm := { s.tm with tdoomed := true } }

/-- The thread with SRR0 and SRR1. -/
def withSrr (s : State) (a m : Word) : State := { s with sprs := { s.sprs with srr0 := a, srr1 := m } }

/-- The thread with HSRR0 and HSRR1. -/
def withHsrr (s : State) (a m : Word) : State := { s with sprs := { s.sprs with hsrr0 := a, hsrr1 := m } }

/-- The outcome is a next state with a property. -/
def nextSat (r : Result) (p : State → Bool) : Bool :=
  match r with
  | .next t => p t
  | .fault _ => false
  | .refused _ => false

/-! ### Instructions -/

/-- V41.1. -/
theorem test_tbegin_outer :
    nextSat (exec (.tbegin false false) (withTexasr (user 1 0x1000) (BitVec.allOnes 64))) (fun t =>
      t.sprs.texasr == 1 && t.sprs.tfhar == 0x1004 && t.ts == tsT && t.nia == 0x1004 && crField t.cr 0 == 0) = true := by
  decide
/-- V41.2: a Rollback-Only Transaction. -/
theorem test_tbegin_rot :
    nextSat (exec (.tbegin false true) (user 1 0x1000)) (fun t => t.sprs.texasr == 0x02000001 && t.storageLog.isEmpty) = true := by
  decide
/-- V41.8. -/
theorem test_tend_commits :
    nextSat (exec (.tend false) (inTransaction (user 5 0x1010))) (fun t =>
      t.mem.read 0x2000 == 0x33 && t.sprs.texasr == 0 && t.ts == tsN && crField t.cr 0 == 0b0100 && t.nia == 0x1014) = true := by
  decide
/-- V41.12. -/
theorem test_tend_suspended :
    nextSat (exec (.tend false) { inTransaction (priv 3 0x3000) with msr := 0x8000000300001002 }) (fun t =>
      t.sprs.srr0 == 0x3000 && t.sprs.srr1 == 0x8000000300201002 && t.msr == 0x8000000200001000) = true := by
  decide
/-- V42.1. -/
theorem test_tabort :
    nextSat (exec (.tabort 5) ((inTransaction (user 5 0x1010)).setGpr 5 0xAB)) (fun t =>
      t.sprs.texasr == 0xAB0000011C000001 && t.sprs.tfiar == 0x1011 && t.ts == tsN && crField t.cr 0 == 0b1010 &&
        t.nia == 0x1004 && t.gpr 5 == 7) = true := by
  decide
/-- V42.4. -/
theorem test_tabort_suspended :
    nextSat (exec (.tabort 5) ((inTransaction (user 3 0x2008)).setGpr 5 0x1F)) (fun t =>
      t.sprs.texasr == 0x1F0000019C000001 && t.sprs.tfiar == 0x2009 && t.ts == tsS && crField t.cr 0 == 0b0010 &&
        t.nia == 0x200C && t.gpr 5 == 0x1F && t.tm.txData.isEmpty) = true := by
  decide
/-- V42.8: a signed comparison of words. -/
theorem test_tabortwc_signed :
    nextSat (exec (.tabortwc 16 3 4) (((inTransaction (user 5 0x1010)).setGpr 3 0x80000000).setGpr 4 1)) (fun t =>
      t.ts == tsN) = true := by
  decide
/-- V42.8b: an unsigned comparison of sign-extended words. -/
theorem test_tabortwc_unsigned :
    nextSat (exec (.tabortwc 2 3 4) (((inTransaction (user 5 0x1010)).setGpr 3 0x80000000).setGpr 4 1)) (fun t =>
      t.ts == tsT && crField t.cr 0 == 0b0100) = true := by
  decide
/-- V42.12c. -/
theorem test_tabortwci_equal :
    nextSat (exec (.tabortwci 4 6 (-1)) ((inTransaction (user 5 0x1010)).setGpr 6 0xFFFFFFFF)) (fun t => t.ts == tsN) = true := by
  decide
/-- V42.12b: 5 is greater than -1. -/
theorem test_tabortwci_greater :
    nextSat (exec (.tabortwci 8 6 (-1)) ((inTransaction (user 5 0x1010)).setGpr 6 5)) (fun t => t.ts == tsN) = true := by
  decide
/-- V42.7: 64-bit operands differ. -/
theorem test_tabortdc_differ :
    nextSat (exec (.tabortdc 4 3 4) (((inTransaction (user 5 0x1010)).setGpr 3 0xFFFFFFFF00000007).setGpr 4 7)) (fun t =>
      t.ts == tsT && crField t.cr 0 == 0b0100) = true := by
  decide
/-- V42.13. -/
theorem test_tabortdc_suspended :
    nextSat (exec (.tabortdc 2 3 4) (((inTransaction (user 3 0x1010)).setGpr 3 1).setGpr 4 (BitVec.allOnes 64))) (fun t =>
      t.ts == tsS && texasrCause t.sprs.texasr == 1 && texasrSuspended t.sprs.texasr && t.tm.handleOnResume) = true := by
  decide
/-- V42.14. -/
theorem test_tabortdci_less :
    nextSat (exec (.tabortdci 16 3 (-1)) ((inTransaction (user 5 0x1010)).setGpr 3 0x8000000000000000)) (fun t =>
      t.ts == tsN) = true := by
  decide
/-- V42.15b. -/
theorem test_tabortdci_differ :
    nextSat (exec (.tabortdci 4 7 (-16)) ((inTransaction (user 5 0x1010)).setGpr 7 0xFFFFFFF0)) (fun t =>
      t.ts == tsT) = true := by
  decide
/-- V43.1. -/
theorem test_tsuspend :
    nextSat (exec (.tsr false) (inTransaction (user 5 0x1010))) (fun t =>
      t.ts == tsS && crField t.cr 0 == 0b0100 && t.tm == (inTransaction (user 5 0)).tm) = true := by
  decide
/-- V43.6: the abort of a suspended transaction is handled at tresume. -/
theorem test_tresume_handles :
    nextSat (exec (.tabort 5) (inTransaction (user 3 0x2008))) (fun t =>
      nextSat (exec (.tsr true) t) fun u => u.ts == tsN && crField u.cr 0 == 0b1010 && u.nia == 0x1004 && u.gpr 5 == 7) = true := by
  decide
/-- V43.8. -/
theorem test_tcheck :
    nextSat (exec (.tcheck 7) (doomed (inTransaction (user 3 0x1010)))) (fun t => t.cr == 0x0000000A) = true := by decide
/-- V43.9. -/
theorem test_tcheck_transactional :
    nextSat (exec (.tcheck 0) (inTransaction (user 5 0x1010))) (fun t => crField t.cr 0 == 0b0100) = true := by decide
/-- V44.1. -/
theorem test_treclaim :
    nextSat (exec (.treclaim 3) (((inTransaction (priv 3 0x8000)).setGpr 5 99).setGpr 3 3)) (fun t =>
      crField t.cr 0 == 0b0010 && t.sprs.texasr == 0x030000018C000001 && t.sprs.tfiar == 0x8000 && t.gpr 5 == 7 &&
        t.gpr 3 == 0 && t.ts == tsN && t.nia == 0x8004) = true := by
  decide
/-- V44.4. -/
theorem test_treclaim_bad_thing :
    nextSat (exec (.treclaim 0) (priv 1 0x8000)) (fun t => t.sprs.srr0 == 0x8000 && bit t.sprs.srr1 42) = true := by decide
/-- V44.7. -/
theorem test_trechkpt :
    nextSat (exec .trechkpt ((withTexasr (priv 1 0x1000) 0x0000000188000001).setGpr 5 7)) (fun t =>
      crField t.cr 0 == 0 && t.ts == tsS && t.tm.tdoomed && t.tm.handleOnResume && t.sprs.texasr == 0x0000000188000001) = true := by
  decide
/-- V44.11: the privilege check comes first. -/
theorem test_trechkpt_privilege :
    nextSat (exec .trechkpt (user 1 0x1000)) (fun t => bit t.sprs.srr1 45 && !bit t.sprs.srr1 42) = true := by decide
/-- V45.2. -/
theorem test_mfspr_texasru :
    nextSat (exec (.mfspr 4 131) (withTexasr (user 1 0x1000) 0x010000010C000001)) (fun t => t.gpr 4 == 0x01000001) = true := by
  decide
/-- V45.4: a TFIAR recorded in a more privileged state reads as zero. -/
theorem test_mfspr_tfiar_hidden :
    nextSat (exec (.mfspr 3 129) { user 1 0x1000 with sprs := { SprFile.zero with tfiar := 0x8000 } }) (fun t =>
      t.gpr 3 == 0 && t.nia == 0x1004) = true := by
  decide
/-- V45.11. -/
theorem test_mtspr_texasru :
    nextSat (exec (.mtspr 131 3) ((withTexasr (priv 1 0x1000) 1).setGpr 3 0xDEADBEEF03000001)) (fun t =>
      t.sprs.texasr == 0x0300000100000001) = true := by
  decide
/-- V45.15. -/
theorem test_mtspr_bad_thing :
    nextSat (exec (.mtspr 128 3) { inTransaction (user 5 0x2000) with msr := 0x800000050000D432 }) (fun t =>
      t.sprs.srr0 == 0x2000 && t.sprs.srr1 == 0x800000050020D432 && t.msr == 0x8000000200001000 && !t.tm.tdoomed) = true := by
  decide
/-- V46.1. -/
theorem test_rfid :
    nextSat (exec .rfid (withSrr (thread 0x8000000200001000 0x9000) 0x1043 0x800000050004C002)) (fun t =>
      t.msr == 0x800000050000D032 && t.nia == 0x1040 && !t.completed) = true := by
  decide
/-- V46.2: the transition from S0 to N0 is suppressed. -/
theorem test_rfid_suppressed :
    nextSat (exec .rfid (withSrr (thread 0x8000000200001000 0x9000) 0 0x800000000000C032)) (fun t =>
      t.msr == 0x800000020000D032) = true := by
  decide
/-- V46.4. -/
theorem test_hrfid :
    nextSat (exec .hrfid (withHsrr (thread 0x9000000300001000 0x9000) 0x4000 0x800000050000C032)) (fun t =>
      t.msr == 0x800000050000C032 && t.nia == 0x4000) = true := by
  decide
/-- hrfid outside hypervisor state (R253). -/
theorem test_hrfid_privilege : nextSat (exec .hrfid (priv 1 0x9000)) (fun t => bit t.sprs.srr1 45) = true := by decide
/-- V46.6. -/
theorem test_mtmsrd :
    nextSat (exec (.mtmsrd 3 false) ((thread 0x8000000200001000 0x9000).setGpr 3 0x9000000300001003)) (fun t =>
      t.msr == 0x8000000300001002 && t.nia == 0x9004) = true := by
  decide
/-- V46.8. -/
theorem test_mtmsrd_one :
    nextSat (exec (.mtmsrd 3 true) ((thread 0x8000000300001000 0x9000).setGpr 3 (BitVec.allOnes 64))) (fun t =>
      t.msr == 0x8000000300009002) = true := by
  decide
/-- V47.2. -/
theorem test_doze_transactional :
    nextSat (exec .doze (inTransaction (hyp 5 0x1100))) (fun t =>
      t.sprs.texasr == 0x018000002C000001 && t.ts == tsN && t.nia == 0x1004 && t.power == .running) = true := by
  decide
/-- V47.4. -/
theorem test_doze : nextSat (exec .doze (hyp 1 0x5000)) (fun t => t.power == .doze && t.nia == 0x5004) = true := by decide
/-- V47.1. -/
theorem test_nap_suspended :
    nextSat (exec .nap (inTransaction (hyp 3 0x5000))) (fun t => t.sprs.srr0 == 0x5000 && bit t.sprs.srr1 42 && t.ts == tsS) = true := by
  decide
/-- V47.3. -/
theorem test_sleep_privilege : nextSat (exec .sleep (priv 1 0x5000)) (fun t => bit t.sprs.srr1 45) = true := by decide
/-- V47.4. -/
theorem test_rvwinkle : nextSat (exec .rvwinkle (hyp 1 0x5000)) (fun t => t.power == .rvwinkle) = true := by decide

/-! ### Steps -/

/-- After reset the first instruction placed runs: tbegin. meets TM = 0 in hypervisor state (R296, D12). -/
theorem test_step_reset :
    nextSat (step (State.reset.withFetchWord 32 0x7C00051D)) (fun t => t.sprs.srr0 == 0x100 && t.ts == tsN && !msrTm t.msr) = true := by
  decide
/-- V60.4: a traced tbegin. -/
theorem test_step_trace :
    nextSat (step ({ user 1 0x1000 with msr := 0x800000010000D432 }.withFetchWord 32 0x7C00051D)) (fun t =>
      t.sprs.srr0 == 0x1004 && t.sprs.tfhar == 0x1004 && t.msr == 0x8000000200001000 && t.nia == 0xD00) = true := by
  decide
/-- A store in Suspended state takes effect at once (R84); nothing of the transaction's is in its way. -/
theorem test_store_suspended :
    nextSat (execBaseInstr (.storeGpr 5 0x3000 1) ((user 3 0x1010).setGpr 5 0x9A)) (fun t =>
      t.mem.read 0x3000 == 0x9A && t.ts == tsS && t.nia == 0x1014) = true := by
  decide
/-- A Load of two registers, one sign-extended, one FPR, with an update of its base register, in little-endian order (R71, R81). -/
theorem test_load_parts :
    nextSat (execBaseInstr
        (.load 0x2000 10 [⟨.gpr 4, 0, 2, false, .sign⟩, ⟨.fpr 1, 2, 8, true, .zero⟩] [.gpr 9 0x2000])
        { thread 0x8000000000000001 0x1000 with mem := ⟨[(0x2000, 0x01), (0x2001, 0xFF), (0x2009, 0x7F)]⟩ }) (fun t =>
      t.gpr 4 == 0xFFFFFFFFFFFFFF01 && t.readData (.fpr 1) == 0x7F && t.gpr 9 == 0x2000) = true := by
  decide
/-- A Store of the halves of two registers, one byte-reversed (R82). -/
theorem test_store_parts :
    nextSat (execBaseInstr (.store 0x2000 [⟨.gpr 4, 2, false, none⟩, ⟨.gpr 4, 2, true, none⟩] [])
        ((thread 0x8000000000000000 0x1000).setGpr 4 0x1234)) (fun t =>
      [0x2000, 0x2001, 0x2002, 0x2003].map t.mem.read == [0x12, 0x34, 0x34, 0x12]) = true := by
  decide
/-- A floating-point instruction with an enabled exception in precise mode (R285): SRR1 bit 43, not 47, and the FPSCR recorded. -/
theorem test_fp_precise :
    nextSat (execBaseInstr (.floatingPoint [.fpscr 0x5] true) (thread 0x8000000000000900 0x1000)) (fun t =>
      t.sprs.srr0 == 0x1000 && bit t.sprs.srr1 43 && !bit t.sprs.srr1 47 && t.regs.fpscr == 0x5 && t.regs.fex) = true := by
  decide
/-- The pending exception that rfid enables (R252, R285): SRR0 is the next address, SRR1 bits 43 and 47. -/
theorem test_fp_rfid :
    nextSat (exec .rfid { withSrr (thread 0x8000000000000000 0x9000) 0x4000 0x8000000000000900 with
        regs := { SpecRegs.zero with fex := true } }) (fun t =>
      t.sprs.srr0 == 0x4000 && t.sprs.srr1 == 0x8000000000110900) = true := by
  decide

/-! ### For every statement with hypotheses, a state that meets them -/

/-- Non-transactional, Transactional and Suspended, in problem state. -/
def uN : State := user 1 0x1000
def uT : State := inTransaction (user 5 0x1010)
def uS : State := inTransaction (user 3 0x2008)
/-- The same, privileged. -/
def pN : State := priv 1 0x1000
def pT : State := inTransaction (priv 5 0x1010)
def pS : State := inTransaction (priv 3 0x2008)
/-- The same, in hypervisor state. -/
def hN : State := hyp 1 0x1000
def hT : State := inTransaction (hyp 5 0x1010)
def hS : State := inTransaction (hyp 3 0x2008)

/-- A state with its failure handling owed on resume. -/
def owing (s : State) : State :=
  { withTexasr s 0x000000018C000001 with
    tm := { s.tm with tdoomed := true, txData := [], updatesDiscarded := true, handleOnResume := true } }

/-- A transaction that has accessed nothing but holds a speculative byte. -/
def fresh (s : State) : State := { s with tm := { s.tm with readSet := [], writeSet := [] } }

theorem nextSat_exists {r : Result} {p : State → Bool} (h : nextSat r p = true) : ∃ t, r = .next t ∧ p t = true := by
  cases r with
  | next t => exact ⟨t, rfl, h⟩
  | fault _ => exact absurd h (by simp [nextSat])
  | refused _ => exact absurd h (by simp [nextSat])

theorem tlMax_bounds : 15 ≤ Config.tlMax ∧ Config.tlMax ≤ 4095 := by
  have hk := Config.tAboveFour.isLt
  have h1 : 2 ^ 4 ≤ 2 ^ Config.t := Nat.pow_le_pow_right (by decide) (by unfold Config.t; omega)
  have h2 : 2 ^ Config.t ≤ 2 ^ 12 := Nat.pow_le_pow_right (by decide) (by unfold Config.t; omega)
  unfold Config.tlMax
  omega

theorem witness_DecodeEncode :
    (Instr.tabortwci 31 31 (-16)).wellFormed = true ∧ (Instr.tabortdci 0 0 15).wellFormed = true ∧
      (Instr.mfspr 31 1023).wellFormed = true ∧ (Instr.mtspr 0 0).wellFormed = true := by decide
theorem witness_EncodeDecode : decodeWord 0x7FFFFEA6 = .error .notInOpcodeTable ∧ decodeWord 0x7FFFFAA6 = .ok (.mfspr 31 1023) := by
  decide
theorem witness_DecodeReserved :
    ((0x7C01051D : Word32) &&& opcodeMask = Opcode.tbegin.matchBits ∧ 0x7C01051D &&& Opcode.tbegin.reservedBits ≠ 0) ∧
      (Opcode.tcheck.matchBits.getLsbD 0 = false ∧ (0x7F80059D : Word32) &&& opcodeMask = Opcode.tcheck.matchBits ||| 1) ∧
      (Opcode.rvwinkle.matchBits.getLsbD 0 = false ∧
        (0x4C0003E5 : Word32) &&& opcodeMask = Opcode.rvwinkle.matchBits ||| 1) ∧
      (Opcode.tbegin.matchBits.getLsbD 0 = true ∧
        (0x7C20051C : Word32) &&& opcodeMask = Opcode.tbegin.matchBits &&& ~~~1) := by decide

/-- A Suspended state about to run tend. and a Transactional one about to commit. -/
def runsTend (s : State) : State := (fresh s).withFetchWord 32 0x7C00055D

theorem runsTend_pages (a : Nat) : (runsTend uT).pageAt a = none := rfl

theorem witness_StepRunsDecoded :
    (runsTend uT).unreachableTs = false ∧ quietAt (runsTend uT) ∧ (runsTend uT).power = .running ∧
      (runsTend uT).nextInterrupt = none ∧ (runsTend uT).fpDue = false ∧ (runsTend uT).tm.handleOnResume = false ∧
      (∀ p, (runsTend uT).pageAt ((runsTend uT).effective (runsTend uT).nia).toNat = some p →
        p.fetchException = none ∧ ((runsTend uT).ts = tsT → p.cachingInhibited = false)) ∧
      (runsTend uT).fetchDecode = .ok (.tend false) ∧
      touches (runsTend uT).tm.writeSet (runsTend uT).fetchAddresses = false ∧
      (∀ l, l ∈ (runsTend uT).tm.latent → l.certain = false) :=
  ⟨by decide, by unfold quietAt; decide, by decide, by decide, by decide, by decide, fun p h => by simp [runsTend_pages] at h,
    by decide, by decide, by decide⟩

theorem inv_of (s : State) (hm : s.mem.wf) (h1 : s.ts ≠ 0b11 ∧ (s.ts = tsT → msrTm s.msr = true) ∧ (s.ts = tsN → s.tm = Facility.idle) ∧
    (s.ts ≠ tsN → s.tm.checkpoint.isSome = true) ∧ wordAlign s.nia = s.nia)
    (h2 : (cellsRise s.tm.txData ∧ ∀ c ∈ s.tm.txData, c.1 < 2 ^ 64) ∧ s.tm.handleOnResume = false ∧ s.fs = false ∧
      s.tm.updatesDiscarded = false ∧ s.power = .running)
    (h3 : s.ts ≠ tsN → (texasrTl s.sprs.texasr).toNat = 1) : s.Inv where
  memory := hm
  tsLegal := h1.1
  tmEnabled := h1.2.1
  idle := h1.2.2.1
  checkpoint := h1.2.2.2.1
  niaAligned := h1.2.2.2.2
  txData := h2.1
  owed := fun h => by rw [h2.2.1] at h; exact absurd h (by decide)
  doomed := fun _ h => by rw [h2.2.2.1] at h; exact absurd h (by decide)
  discarded := fun h => by rw [h2.2.2.2.1] at h; exact absurd h (by decide)
  level := fun h _ => by have := tlMax_bounds; rw [h3 h]; omega
  asleep := fun h => absurd h2.2.2.2.2 h

theorem runsTend_inv : (runsTend uT).Inv := inv_of _ (by decide) (by decide) (by decide) (by decide)
theorem runsTend_suspended_inv : (runsTend uS).Inv := inv_of _ (by decide) (by decide) (by decide) (by decide)

/-- A Transactional step that commits. -/
theorem witness_StepKeepsInvariant : (runsTend uT).Inv ∧ ∃ t, step (runsTend uT) = .next t ∧ t.ts == tsN :=
  ⟨runsTend_inv, nextSat_exists (by decide)⟩
theorem witness_TransactionIsolation :
    (runsTend uT).Inv ∧ (runsTend uT).ts = tsT ∧ (∀ e, e ∈ (runsTend uT).boundary.external → isStoreEvent e = false) ∧
      ∃ t, step (runsTend uT) = .next t ∧ t.mem.read 0x2000 == 0x33 :=
  ⟨runsTend_inv, by decide, by decide, nextSat_exists (by decide)⟩
/-- A Transactional step that changes no storage: tsuspend. -/
theorem witness_TransactionIsolation_same :
    ((fresh uT).withFetchWord 32 0x7C0005DD).Inv ∧
      ∃ t, step ((fresh uT).withFetchWord 32 0x7C0005DD) = .next t ∧ (t.mem.read 0x2000 == 0) :=
  ⟨inv_of _ (by decide) (by decide) (by decide) (by decide), nextSat_exists (by decide)⟩
/-- A Suspended step that takes an interrupt. -/
theorem witness_HandlerAddressKept :
    (runsTend uS).Inv ∧ (runsTend uS).ts ≠ tsN ∧ ∃ t, step (runsTend uS) = .next t ∧ t.ts == tsS :=
  ⟨runsTend_suspended_inv, by decide, nextSat_exists (by decide)⟩
theorem witness_LeaveNontransactional :
    (uN.withFetchWord 32 0x7C00051D).Inv ∧ (uN.withFetchWord 32 0x7C00051D).ts = tsN ∧
      (∀ e, e ∈ (uN.withFetchWord 32 0x7C00051D).boundary.external → isStoreEvent e = false) ∧
      ∃ t, step (uN.withFetchWord 32 0x7C00051D) = .next t ∧ t.ts == tsT :=
  ⟨inv_of _ (by decide) (by decide) (by decide) (by decide), by decide, by decide, nextSat_exists (by decide)⟩
theorem witness_LeaveNontransactional_stays :
    (uN.withFetchWord 32 0x7C0005DD).Inv ∧ ∃ t, step (uN.withFetchWord 32 0x7C0005DD) = .next t ∧ t.ts == tsN :=
  ⟨inv_of _ (by decide) (by decide) (by decide) (by decide), nextSat_exists (by decide)⟩

theorem witness_RecordFailure : uT.fs = false ∧ uS.fs = false ∧ (owing uS).fs = true := by decide
theorem witness_HandleFailure : uT.tm.checkpoint = some saved := by decide

theorem witness_TbeginOuter : uN.tmUsable ∧ uN.ts = tsN := by unfold State.tmUsable; decide
theorem witness_TbeginNested : uT.tmUsable ∧ uT.ts = tsT ∧ (texasrTl uT.sprs.texasr).toNat < Config.tlMax :=
  ⟨by unfold State.tmUsable; decide, by decide, by
    have h : (texasrTl uT.sprs.texasr).toNat = 1 := by decide
    have := tlMax_bounds
    omega⟩
theorem texasrTl_level (n : Nat) (h : n ≤ 4095) : (texasrTl (BitVec.ofNat 64 n)).toNat = n := by
  simp only [texasrTl, BitVec.extractLsb'_toNat, BitVec.toNat_ofNat, Nat.shiftRight_zero]
  omega
/-- One level below the maximum a nested transaction still begins. -/
theorem witness_TbeginNested_last :
    (withTexasr uT (BitVec.ofNat 64 (Config.tlMax - 1))).tmUsable ∧
      (texasrTl (withTexasr uT (BitVec.ofNat 64 (Config.tlMax - 1))).sprs.texasr).toNat < Config.tlMax := by
  have hb := tlMax_bounds
  have := texasrTl_level (Config.tlMax - 1) (by omega)
  exact ⟨by unfold State.tmUsable; decide, by show (texasrTl (BitVec.ofNat 64 (Config.tlMax - 1))).toNat < _; omega⟩
theorem witness_TbeginOverflow :
    (withTexasr uT (BitVec.ofNat 64 Config.tlMax)).tmUsable ∧ (withTexasr uT (BitVec.ofNat 64 Config.tlMax)).ts = tsT ∧
      (texasrTl (withTexasr uT (BitVec.ofNat 64 Config.tlMax)).sprs.texasr).toNat = Config.tlMax ∧
      (withTexasr uT (BitVec.ofNat 64 Config.tlMax)).tm.checkpoint = some saved :=
  ⟨by unfold State.tmUsable; decide, by decide, texasrTl_level _ tlMax_bounds.2, by decide⟩
theorem witness_TbeginSuspended : uS.tmUsable ∧ uS.ts = tsS := by unfold State.tmUsable; decide
theorem witness_TendCommits :
    uT.tmUsable ∧ uT.ts = tsT ∧ texasrTl uT.sprs.texasr = 1 ∧ texasrTl (withTexasr uT 3).sprs.texasr ≠ 1 ∧
      ¬ uT.tm.failing ∧ cellsRise uT.tm.txData := by
  unfold State.tmUsable Facility.failing; decide
theorem witness_TendNested :
    (withTexasr uT 2).tmUsable ∧ (withTexasr uT 2).ts = tsT ∧ 1 < (texasrTl (withTexasr uT 2).sprs.texasr).toNat := by
  unfold State.tmUsable; decide
/-- A transaction of which a byte it loaded has been overwritten, not yet detected. -/
def conflicted (s : State) : State :=
  { s with tm := { s.tm with
      latent := [⟨⟨.nonTransactionalConflict, none⟩, true, .bytes true [0x3000]⟩], awaited := [0x3000] } }
theorem witness_TendDoomed :
    (doomed uT).tmUsable ∧ (doomed uT).ts = tsT ∧ texasrTl (doomed uT).sprs.texasr = 1 ∧ (doomed uT).tm.failing ∧
      (doomed uT).tm.checkpoint = some saved ∧ (doomed uT).fs = false ∧
      (withTexasr (doomed uT) 0x0008000018000001).fs = true ∧ (conflicted uT).tm.failing ∧
      (conflicted uT).tm.tdoomed = false := by
  unfold State.tmUsable Facility.failing; decide
theorem witness_TendNontransactional : uN.tmUsable ∧ uN.ts = tsN := witness_TbeginOuter
theorem witness_AbortNoEffect :
    isAbort (.tabort 5) = true ∧ uN.tmUsable ∧ uN.ts = tsN ∧ uT.tmUsable ∧
      isAbort (.tabortwc 0 3 4) = true ∧ ¬ abortAsked uT (.tabortwc 0 3 4) ∧
      isAbort (.tabortdci 2 3 0) = true ∧ ¬ abortAsked uT (.tabortdci 2 3 0) := by
  unfold State.tmUsable abortAsked abortHolds; decide
theorem witness_AbortTransactional :
    isAbort (.tabortdci 2 3 (-16)) = true ∧ uT.tmUsable ∧ uT.ts = tsT ∧ abortAsked uT (.tabortdci 2 3 (-16)) ∧
      abortAsked uT (.tabortwc 4 3 4) ∧ abortAsked uT (.tabortwci 16 3 15) ∧ abortAsked uT (.tabortdc 4 3 4) ∧
      abortAsked uT (.tabort 0) ∧ uT.tm.checkpoint = some saved := by
  unfold State.tmUsable abortAsked abortHolds; decide
theorem witness_AbortSuspended :
    isAbort (.tabort 5) = true ∧ uS.tmUsable ∧ uS.ts = tsS ∧ abortAsked uS (.tabort 5) ∧ uS.fs = false := by
  unfold State.tmUsable abortAsked; decide
theorem witness_TsrSuspends : uT.tmUsable ∧ uT.ts = tsT := by unfold State.tmUsable; decide
theorem witness_TsrResumes : uS.tmUsable ∧ uS.ts = tsS ∧ uS.tm.handleOnResume = false := by unfold State.tmUsable; decide
theorem witness_TsrResumeHandles :
    (owing uS).tmUsable ∧ (owing uS).ts = tsS ∧ (owing uS).tm.handleOnResume = true ∧
      (owing uS).tm.checkpoint = some saved := by
  unfold State.tmUsable; decide
theorem witness_TsrNoChange : uN.tmUsable ∧ uN.ts ≠ tsT ∧ uN.ts ≠ tsS ∧ uS.tmUsable ∧ uS.ts ≠ tsT := by
  unfold State.tmUsable; decide
theorem block_self (a : Nat) : sameBlock a a = true := by simp [sameBlock]
/-- Non-transactional, Transactional without a conflict, and with a certain one on a location that tcheck waits for. -/
theorem witness_Tcheck :
    (uN.tmUsable ∧ uT.tmUsable ∧ uT.ts ≠ tsN) ∧
      ∃ l, l ∈ (conflicted uT).tm.latent ∧ l.on (conflicted uT).tm.awaited = true ∧ l.certain = true :=
  ⟨by unfold State.tmUsable; decide, ⟨⟨.nonTransactionalConflict, none⟩, true, .bytes true [0x3000]⟩, by decide,
    by simp [Latent.on, conflicted, block_self], rfl⟩
theorem witness_TreclaimReclaims :
    msrPr pS.msr = false ∧ pS.tmUsable ∧ pS.ts ≠ tsN ∧ pS.tm.checkpoint = some saved ∧ pT.tmUsable ∧ pT.ts ≠ tsN := by
  unfold State.tmUsable; decide
theorem witness_TrechkptRebuilds :
    msrPr (withTexasr pN 0x188000001).msr = false ∧ (withTexasr pN 0x188000001).tmUsable ∧
      (withTexasr pN 0x188000001).ts = tsN ∧ (withTexasr pN 0x188000001).fs = true := by
  unfold State.tmUsable; decide
theorem witness_TmBadThings :
    (pN.tmUsable ∧ msrPr pN.msr = false ∧ pN.ts = tsN ∧ pN.fs = false) ∧ (pS.tmUsable ∧ pS.ts = tsS ∧ pS.ts ≠ tsN) ∧
      (hS.hypervisorState = true ∧ hS.ts = tsS) := by
  unfold State.tmUsable; decide
/-- SPR 129 in problem state, recorded at the reader's level and above it; SPR 1023, privileged. -/
theorem witness_MfsprReads :
    mfsprRow 129 = some (.tfiar, .problem) ∧ uN.mayRun .problem = true ∧ uN.tmUsable ∧
      ¬ (uN.hvPr = 0b10 ∨ uN.sprs.tfiar.extractLsb' 0 2 = uN.hvPr ∨
        (uN.hvPr = 0b00 ∧ uN.sprs.tfiar.extractLsb' 0 2 = 0b01)) ∧
      hN.hvPr = 0b10 ∧ mfsprRow 1023 = some (.pir, .privileged) ∧ pN.mayRun .privileged = true := by
  unfold State.tmUsable; decide
/-- A TM SPR in Non-transactional state, a speculative SPR in Transactional state, the last SPR of Figure 1. -/
theorem witness_MtsprWrites :
    (mtsprRow 128 = some (.tfhar, .problem) ∧ uN.tmUsable ∧ uN.ts = tsN) ∧
      (mtsprRow 9 = some (.ctr, .problem) ∧ uT.ts = tsT ∧ Spr.ctr.isSpeculative = true) ∧
      (mtsprRow 1015 = some (.dabrx, .hypervisor) ∧ hN.mayRun .hypervisor = true) := by
  unfold State.tmUsable; decide
/-- A part of a register, its whole, and another register. -/
theorem witness_SprWriteEffect : Spr.texasru.whole = Spr.texasr.whole ∧ Spr.tfhar.whole ≠ Spr.texasr.whole := by decide
theorem witness_MtsprDisallowed :
    mtsprRow 26 = some (.srr0, .privileged) ∧ pT.mayRun .privileged = true ∧ pT.ts = tsT ∧ Spr.srr0.isTm = false ∧
      Spr.srr0.isSpeculative = false ∧ pT.tm.checkpoint = some saved := by decide
/-- SPR 0, 16 and 1016 are undefined, 136 for mtspr only, 152 for mfspr only. -/
theorem witness_UndefinedSpr :
    mfsprRow 0 = none ∧ mtsprRow 0 = none ∧ mfsprRow 16 = none ∧ mtsprRow 1016 = none ∧ mtsprRow 136 = none ∧
      mfsprRow 152 = none ∧ uN.ts ≠ tsT ∧ msrPr uN.msr = true ∧ msrPr pN.msr = false ∧
      (uT.ts = tsT ∧ msrPr uT.msr = true ∧ uT.tm.checkpoint = some saved ∧ msrPr pT.msr = false) := by decide
theorem witness_Table2 : ¬ table2Allows 0b011 0b000 ∧ table2Allows 0b010 0b000 ∧ table2Allows 0b010 0b101 := by
  unfold table2Allows; decide
theorem witness_RfidReturns :
    msrPr (withSrr pS 0x4003 0x800000050000C032).msr = false ∧ (withSrr pS 0x4003 0x800000050000C032).ts ≠ tsT ∧
      table2Allows (msrTsTm (withSrr pS 0x4003 0x800000050000C032).msr) 0b101 ∧
      ¬ pcrForbids (withSrr pS 0x4003 0x800000050000C032) 0x800000050000C032 ∧
      (withSrr pS 0x4003 0x800000050000C032).tm.handleOnResume = false ∧
      ¬ fpArises (withSrr pS 0x4003 0x800000050000C032) 0x800000050000C032 ∧
      msrTsTm (withSrr pS 0x4003 0x800000050000C032).sprs.srr1 = 0b101 ∧
      ((owing (withSrr pS 0x4003 0x800000030000C032)).tm.handleOnResume = true ∧ msrTs 0x800000030000C032 ≠ tsT ∧
        table2Allows (msrTsTm (owing (withSrr pS 0x4003 0x800000030000C032)).msr) 0b011) := by
  unfold table2Allows pcrForbids fpArises; decide
theorem witness_HrfidReturns :
    (withHsrr hS 0x4003 0x500004032).hypervisorState = true ∧ (withHsrr hS 0x4003 0x500004032).ts ≠ tsT ∧
      table2Allows (msrTsTm (withHsrr hS 0x4003 0x500004032).msr) (msrTsTm (withHsrr hS 0x4003 0x500004032).sprs.hsrr1) ∧
      ¬ pcrForbids (withHsrr hS 0x4003 0x500004032) 0x500004032 ∧
      ¬ fpArises (withHsrr hS 0x4003 0x500004032) 0x500004032 ∧
      (withHsrr hS 0x4003 0x500004032).tm.handleOnResume = false := by
  unfold table2Allows pcrForbids fpArises; decide
/-- From S1, and from N0 to N1. -/
theorem witness_MtmsrdLoads :
    msrPr pS.msr = false ∧ pS.ts ≠ tsT ∧ table2Allows (msrTsTm pS.msr) (msrTsTm ((pS.setGpr 3 0x500000000).gpr 3)) ∧
      ¬ pcrForbids pS 0x500000000 ∧ ¬ fpArises pS 0x500000000 ∧ pS.tm.handleOnResume = false ∧
      table2Allows (msrTsTm (priv 0 0).msr) (msrTsTm (((priv 0 0).setGpr 3 0x100000000).gpr 3)) := by
  unfold table2Allows pcrForbids fpArises; decide
theorem witness_MtmsrdOne : msrPr pS.msr = false ∧ pS.ts ≠ tsT ∧ msrPr pN.msr = false ∧ pN.ts ≠ tsT := by decide
/-- TM disabled by the PCR. -/
def pcrOff (s : State) : State := { s with sprs := { s.sprs with pcr := 0x2000000000000000 } }
theorem witness_ReturnBadThing :
    pS.ts = tsS ∧ msrPr pS.msr = false ∧ ¬ table2Allows (msrTsTm pS.msr) (msrTsTm pS.sprs.srr1) ∧
      hS.hypervisorState = true ∧ ¬ table2Allows (msrTsTm hS.msr) (msrTsTm hS.sprs.hsrr1) ∧
      pcrForbids (pcrOff pS) 0x4000 ∧ (pcrOff pS).ts = tsS ∧ pN.ts = tsN ∧
      ¬ table2Allows (msrTsTm pN.msr) (msrTsTm ((pN.setGpr 3 0x500000000).gpr 3)) := by
  unfold table2Allows pcrForbids; decide
/-- By each of the three: a suspended thread in hypervisor state with the image in SRR1, HSRR1 and GPR 3. -/
def returning : State :=
  (withHsrr (withSrr (owing hS) 0x1040 0x800000050000C032) 0x1040 0x800000050000C032).setGpr 3 0x800000050000C032
theorem witness_ReturnHandlesOwed :
    (returning.ts = tsS ∧ returning.tm.handleOnResume = true ∧ returning.tm.checkpoint = some saved ∧
      msrPr returning.msr = false ∧ returning.hypervisorState = true) ∧
      msrTsTm returning.sprs.srr1 = 0b101 ∧ msrTsTm returning.sprs.hsrr1 = 0b101 ∧ msrTsTm (returning.gpr 3) = 0b101 ∧
      ¬ pcrForbids returning 0x800000050000C032 ∧ ¬ fpArises returning 0x800000050000C032 := by
  unfold pcrForbids fpArises; decide
theorem witness_PowerSavingEntered : hN.hypervisorState = true ∧ hN.ts = tsN := by decide
/-- A thread in doze, or nap, with interrupts pending of which MSR.EE = 0 holds back the first. -/
def dozing (l : PowerLevel) : State :=
  { hN with power := l, pendingInterrupts := [.external, .hypervisorDecrementer, .systemReset] }
theorem witness_PowerSavingLeft :
    (dozing .doze).power ≠ .running ∧ (dozing .doze).nextInterrupt = some .hypervisorDecrementer ∧
      (dozing .nap).power = .nap ∧ (dozing .nap).nextInterrupt = some .hypervisorDecrementer ∧
      ({ hN with power := .sleep, pendingInterrupts := [.decrementer] } : State).nextInterrupt = none := by decide
theorem witness_PrivilegedInstructions :
    msrPr uN.msr = true ∧ pN.hypervisorState = false ∧ mtsprRow 304 = some (.hsprg0, .hypervisor) ∧
      mfsprRow 26 = some (.srr0, .privileged) ∧ pN.mayRun .hypervisor = false ∧ uN.mayRun .privileged = false := by decide
theorem witness_DisallowedInTransactional :
    pT.ts = tsT ∧ pT.tm.checkpoint = some saved ∧ msrPr pT.msr = false ∧ hT.ts = tsT ∧ hT.hypervisorState = true ∧
      hT.tm.checkpoint = some saved := by decide
theorem witness_FacilityUnavailable :
    (Instr.trechkpt.isTm = true ∧ msrPr (priv 0 0).msr = false) ∧
      (msrPr (pcrOff uN).msr = true ∧ (pcrOff uN).tmDisabledByPcr = true) ∧
      ((State.reset.hypervisorState = true ∧ msrTm State.reset.msr = false) ∧
        ({ uN with controls := Controls.zero } : State).hypervisorState = false ∧
        ({ uN with controls := Controls.zero } : State).controls.hfscrTm = false) ∧
      ((user 0 0).controls.hfscrTm = true ∧ msrTm (user 0 0).msr = false ∧ (user 0 0).tmDisabledByPcr = false) := by decide
theorem witness_InterruptEntry :
    uT.usesHsrr .program = false ∧ uT.usesHsrr .hypervisorDecrementer = true ∧ uT.ts = tsT ∧ uS.ts ≠ tsT := by decide
theorem witness_Figure3Bits : hN.power = .running ∧ (dozing .sleep).power ≠ .running := by decide
/-- A pending Floating-Point Enabled Exception that the image of each return enables. -/
def fpPending (s : State) : State := { s with regs := { s.regs with fex := true } }
theorem witness_ProgramInterruptStatus :
    (msrPr (fpPending hN).msr = false ∧ (fpPending hN).hypervisorState = true ∧ (fpPending hN).ts ≠ tsT) ∧
      table2Allows (msrTsTm (fpPending hN).msr) (msrTsTm 0x8000000100000900) ∧
      ¬ pcrForbids (fpPending hN) 0x8000000100000900 ∧ fpArises (fpPending hN) 0x8000000100000900 ∧
      ((fpPending pS).ts = tsS ∧ table2Allows (msrTsTm (fpPending pS).msr) (msrTsTm 0x8000000500000100) ∧
        fpArises (fpPending pS) 0x8000000500000100) := by
  unfold table2Allows pcrForbids fpArises; decide
/-- rfid that resumes with handling owed and enables a Floating-Point Enabled Exception saves the handler's address (R252 corner case a). -/
theorem test_rfid_fp_owed :
    nextSat (exec .rfid { fpPending pS with
      sprs := { pS.sprs with srr0 := 0x3000, srr1 := 0x8000000500000100 }, tm := { pS.tm with handleOnResume := true } })
      (fun t => t.sprs.srr0 == 0x1004 && t.ts == tsS && bit t.sprs.srr1 43) = true := by decide
/-- With `MSR[FE0 FE1]` = 0b01 and a Floating-Point Enabled Exception due. -/
def fpOwing (s : State) : State := { fpPending s with msr := putBit s.msr 55 true }
theorem witness_TraceInterrupt :
    (uN.complete.completed = true ∧ uN.complete.fpDue = false) ∧ uT.completed = false ∧
      (fpOwing uN).complete.completed = true ∧ (fpOwing uN).complete.fpDue = true := by decide
/-- A Floating-Point Enabled interrupt that is due is taken before an asynchronous interrupt, which stays pending. -/
theorem test_fp_before_async :
    nextSat ((fpOwing { uN with pendingInterrupts := [.machineCheck] }).atBoundary Boundary.quiet) (fun t =>
      bit t.sprs.srr1 43 && bit t.sprs.srr1 47 && t.pendingInterrupts == [.machineCheck]) = true := by decide
/-- A failure is detected, and the updates are discarded, at the boundary at which the interrupt is then taken (U24). -/
theorem test_detect_before_interrupt :
    nextSat (({ uT with pendingInterrupts := [.machineCheck] } : State).atBoundary
        { Boundary.quiet with agent := { AgentDraw.quiet with detect := some .footprintOverflow, discard := true } })
      (fun t => t.ts == tsS && t.tm.tdoomed && t.tm.updatesDiscarded && t.pendingInterrupts == []) = true := by decide
/-- A failure that is handled at the boundary of an interrupt leaves the interrupt pending (U24). -/
theorem test_handle_before_interrupt :
    nextSat (({ doomed uT with pendingInterrupts := [.machineCheck] } : State).atBoundary
        { Boundary.quiet with agent := { AgentDraw.quiet with handle := true } })
      (fun t => t.ts == tsN && t.nia == 0x1004 && t.pendingInterrupts == [.machineCheck]) = true := by decide
/-- mtmsr that asks for TS || TM = 0b101 keeps 0b000 (R254). -/
theorem test_mtmsr :
    nextSat (execBaseInstr (.mtmsr 0x0000000500009000) hN) (fun t => msrTsTm t.msr == msrTsTm hN.msr && bit t.msr 48) = true := by
  decide
/-- MSR.LE at reset is HILE (R341). -/
theorem test_reset_le :
    msrLe (State.resetAt 0 Params.default 0 { Controls.zero with hile := true }).msr = true ∧ msrLe State.reset.msr = false := by
  decide
/-- One page, Caching Inhibited, whose stores meet a protection exception. -/
def deviceful (s : State) : State :=
  { s with pages := [⟨0x2000, 0x1000, true, false, false, none, some .protection, none, false, false⟩] }
/-- In a doomed transaction a load of a disallowed type is not performed even where the type causes no failure; outside it, it is (R178). -/
theorem test_doomed_disallowed :
    (deviceful (doomed uT)).accessStop false false false [0x1FFF, 0x2000] 0 = some .pendingFailure ∧
      (deviceful uT).accessStop false false false [0x1FFF, 0x2000] 0 = none ∧
      (deviceful (doomed uS)).accessStop false true true [0x1FFF, 0x2000] 0 = none := by decide
/-- An exception that the tape gives at byte 3 comes after that of the page of byte 1, and before that of the page of byte 4 (R112). -/
theorem test_given_exception :
    (deviceful uN).givenStop true false false .alignment 3 [0x1FFF, 0x2000, 0x2001, 0x2002] = .exception .protection 1 ∧
      (deviceful uN).givenStop true false false .alignment 3 [0x1FFC, 0x1FFD, 0x1FFE, 0x1FFF, 0x2000] = .exception .alignment 3 := by
  decide
/-- Of an access that meets an exception at a byte, an allowed byte after it can be performed too (R112). -/
theorem test_other_bytes :
    (deviceful uN).byteRuns true 0x2FFF = false ∧ (deviceful uN).byteRuns true 0x3000 = true ∧
      (deviceful uN).accessStop true false false [0x2FFF, 0x3000] 0 = some (.exception .protection 0) := by decide
/-- A Suspended-state store over the transaction's own byte leaves nothing that a load or the commit would put in its place (R86). -/
theorem test_suspended_store_newer :
    seenByte uS 0x2000 = 0x33 ∧ seenByte { uS.supersede [0x2000] with mem := uS.mem.writeCells [(0x2000, 0x44)] } 0x2000 = 0x44 ∧
      (uS.supersede [0x2001]).tm.txData = uS.tm.txData := by decide
/-- The thread with storage of one page, with attributes that no transaction minds. -/
def paged (s : State) : State := { s with pages := [⟨0x2000, 0x1000, false, false, false, none, none, none, false, false⟩] }

/-- No page of `paged` has an exception or a disallowed type. -/
theorem paged_clear (s : State) (st : Bool) (addrs : List Nat) : accessClear (paged s) st addrs := by
  intro a _ p hp
  have hm := List.mem_of_find?_eq_some hp
  have : p = ⟨0x2000, 0x1000, false, false, false, none, none, none, false, false⟩ := by simpa [paged] using hm
  subst this
  exact ⟨by cases st <;> rfl, fun _ => ⟨rfl, rfl, rfl⟩⟩

/-- A Store of 16 bytes across the end of the address space, on an unlisted page, and one on a listed page. -/
theorem witness_StoreTransactional :
    (paged uT).ts = tsT ∧ storeSize [⟨.vsr 40, 16, false, none⟩] ≤ 2 ^ 32 ∧
      accessClear (paged uT) true ((paged uT).operandAddresses 0xFFFFFFFFFFFFFFFC 16) ∧
      accessClear (paged uT) true ((paged uT).operandAddresses 0x2FFC 16) ∧ (paged uT).tm.updatesDiscarded = false :=
  ⟨by decide, by decide, paged_clear _ _ _, paged_clear _ _ _, by decide⟩
theorem witness_LoadSeesOwnStore :
    (uT.ts = tsT ∧ uT.tm.tdoomed = false ∧ uT.tm.updatesDiscarded = false ∧
        (∀ l, l ∈ uT.tm.latent → l.certain = false) ∧
        nextSat (execBaseInstr (.storeGpr 5 0x2000 8) uT) (fun t =>
          nextSat (execBaseInstr (.loadGpr 6 0x2000 8) t) fun _ => true) = true) ∧
      accessClear (paged uT) true ((paged uT).operandAddresses 0x2000 AccessSize.double.bytes) ∧
      accessClear (paged uT) false ((paged uT).operandAddresses 0x2000 AccessSize.double.bytes) :=
  ⟨by decide, paged_clear _ _ _, paged_clear _ _ _⟩
/-- A normal transaction, a ROT that loads a byte it wrote and one that does not, one whose updates are discarded, and one with a conflict on
what is loaded. -/
theorem witness_LoadTransactional :
    ((paged uT).ts = tsT ∧ (paged uT).rot = false ∧ (withTexasr uT 0x2000001).rot = true ∧
        (paged uT).tm.tdoomed = false ∧ (paged uT).tm.updatesDiscarded = false ∧
        (owing (user 5 0)).tm.updatesDiscarded = true ∧ (conflicted uT).ts = tsT) ∧
      ((∃ f, f ∈ uT.tm.writeSet ∧ f.addr ∈ uT.operandAddresses 0x2000 4) ∧
        ∀ f, f ∈ uT.tm.writeSet → f.addr ∉ uT.operandAddresses 0x3000 4) ∧
      accessClear (paged uT) false ((paged uT).operandAddresses 0x2000 4) :=
  ⟨by decide, by decide, paged_clear _ _ _⟩
/-- An operand that hits what the transaction loaded. -/
theorem witness_StoreSuspended :
    (paged uS).ts = tsS ∧ accessClear (paged uS) true ((paged uS).operandAddresses 0x2FFE (storeSize [⟨.gpr 4, 4, true, none⟩])) ∧
      (∃ f, f ∈ (paged uS).tm.readSet ∧
        f.addr ∈ (paged uS).operandAddresses 0x2FFE (storeSize [⟨.gpr 4, 4, true, none⟩])) ∧
      touches ((fresh uS).tm.footprint ++ (fresh uS).tm.speculated) [0x2FFE] = false :=
  ⟨by decide, paged_clear _ _ _, ⟨⟨0x3000, 0x100C⟩, by decide, by decide⟩, by decide⟩
/-- Established in Transactional and used in Suspended state, and the other way round. -/
theorem witness_StoreConditionalSuspended :
    (({ uS with reservation := some ⟨0x2000, 4, tsT⟩ } : State).ts = tsS ∧ tsT ≠ tsS) ∧
      (({ uN with reservation := some ⟨0x2000, 4, tsS⟩ } : State).ts ≠ tsS) := by decide
/-- An access of 8 bytes whose last byte is the one the transaction accessed. -/
theorem witness_ExternalConflicts :
    uT.ts ≠ tsN ∧ uT.ts ≠ 0b11 ∧ (⟨0x3000, 0x100C⟩ : Foot) ∈ uT.tm.footprint ∧ (⟨0x2000, 0x1008⟩ : Foot) ∈ uT.tm.writeSet ∧
      (⟨0x2000, 0x1008⟩ : Foot) ∈ uT.tm.footprint ∧ (0x3000 : Nat) ∈ addressesFrom 0x2FF9 8 ∧
      (0x2000 : Nat) ∈ addressesFrom 0x1FF9 8 := by decide

end Sys2Proof.Tests
end

section
/-!
PROOFS. Figure 1: what a write of a special purpose register leaves in it and in every other one (10_state.md rules R40, R46;
45_spr_moves.md rules R241, R243).
-/

namespace Sys2Proof.Machine

/-! ### Bits taken from a written value -/

/-- A write of the upper half takes its bits from the low word of the value, that of the lower half from the same places. -/
theorem bitsTaken_putField_upper (v old : Word) :
    bitsTaken (fun k => decide (k < 32)) 32 v old (putField old 32 32 (v.setWidth 32)) := by
  intro k hk
  rw [bit_putField _ _ _ _ _ hk]
  by_cases h : k < 32
  · rw [if_pos (by omega), if_pos (by simpa using h), BitVec.getLsbD_setWidth, bit_eq_getLsbD v (k + 32) (by omega),
      decide_eq_true (by omega), Bool.true_and]
    congr 1
  · rw [if_neg (by omega), if_neg (by simpa using h)]

theorem bitsTaken_putField_lower (v old : Word) :
    bitsTaken (fun k => decide (32 ≤ k)) 0 v old (putField old 0 32 (v.setWidth 32)) := by
  intro k hk
  rw [bit_putField _ _ _ _ _ hk]
  by_cases h : 32 ≤ k
  · rw [if_pos (by omega), if_pos (by simpa using h), BitVec.getLsbD_setWidth, Nat.add_zero, bit_eq_getLsbD v k hk,
      decide_eq_true (by omega), Bool.true_and, Nat.sub_zero]
  · rw [if_neg (by omega), if_neg (by simpa using h)]

/-- A masked write takes the bits the mask lets through. -/
theorem bitsTaken_select (mask v old : Word) : bitsTaken (bit mask) 0 v old (select mask v old) :=
  fun k hk => bit_select mask v old k hk

/-- A write under a mask of the first bits takes these. -/
theorem bitsTaken_select_maskRange_zero (b : Nat) (hb : b < 64) (v old : Word) :
    bitsTaken (fun k => decide (k < b + 1)) 0 v old (select (maskRange 0 b) v old) := by
  intro k hk
  rw [bit_select _ _ _ _ hk, bit_maskRange 0 b k hb hk]
  simp

theorem bit_and {w : Nat} (x y : BitVec w) (k : Nat) : bit (x &&& y) k = (bit x k && bit y k) := BitVec.getMsbD_and

/-! ### A read after a write -/

/-- The free choice of a masked write gives one of its two forms (log 32). -/
theorem State.perhaps_induction (s : State) {P : Word → Prop} {masked plain : Word} (hplain : P plain) (hmasked : P masked) :
    P (s.perhaps masked plain) := by
  unfold State.perhaps
  split
  · exact hmasked
  · exact hplain

/-- A 32-bit register, read as 64 bits, holds the low word written. -/
theorem toNat_setWidth_word (v : Word) : ((v.setWidth 32).setWidth 64).toNat = v.toNat % 2 ^ 32 := by
  rw [BitVec.toNat_setWidth_of_le (by decide), BitVec.toNat_setWidth]

/-- A write of each register leaves in it what Figure 1 says (R40, R46, R241). -/
theorem State.writeSpr_written (s : State) (v : Word) (reg : Spr) : sprWritten v s (s.writeSpr v reg) reg := by
  cases reg with
  | amrUser =>
    exact s.perhaps_induction (P := fun x => x = v ∨ bitsTaken (bit s.sprs.uamor) 0 v s.regs.amr x) (.inl rfl)
      (.inr (bitsTaken_select _ _ _))
  | amr =>
    exact s.perhaps_induction (P := fun x => x = v ∨ bitsTaken (bit s.sprs.amor) 0 v s.regs.amr x) (.inl rfl)
      (.inr (bitsTaken_select _ _ _))
  | uamor =>
    exact s.perhaps_induction (P := fun x => x = v ∨ ∀ k, bit x k = (bit v k && bit s.sprs.amor k)) (.inl rfl)
      (.inr (bit_and _ _))
  | hmer => exact fun k => (bit_and _ _ _).trans (Bool.and_comm _ _)
  | texasru | ppr32 | tbu | atbu => exact bitsTaken_putField_upper _ _
  | tbl => exact bitsTaken_putField_lower _ _
  | tbu40 => exact bitsTaken_select_maskRange_zero 39 (by decide) _ _
  | vrsave | dsisr | dec | ctrl | ear | pvr | hdsisr | hdec | lpidr | heir | spefscr | pir => exact toNat_setWidth_word v
  | sprg i | perfmon i => exact congrArg BitVec.toNat (Vector.getElem_set_self i.isLt)
  | _ => rfl

/-! ### What a write leaves unchanged -/

/-- A register that shares no storage with the one written reads as before: each register of Figure 1 has a field of its own, and two
names of one field have one `whole`. -/
theorem State.readSpr_writeSpr_of_whole_ne (s : State) (v : Word) {reg other : Spr} (h : other.whole ≠ reg.whole) :
    (s.writeSpr v reg).readSpr other = s.readSpr other := by
  cases other with
  | sprg j =>
    cases reg with
    | sprg i => exact Vector.getElem_set_ne i.isLt j.isLt fun e => h (congrArg Spr.sprg (Fin.ext e.symm))
    | _ => rfl
  | perfmon j =>
    cases reg with
    | perfmon i => exact Vector.getElem_set_ne i.isLt j.isLt fun e => h (congrArg Spr.perfmon (Fin.ext e.symm))
    | _ => rfl
  | _ =>
    dsimp only [State.readSpr]
    cases reg <;> first | eq_refl | contradiction

/-- A write changes no part of the thread but the registers of Figure 1 and the draws. -/
theorem State.writeSpr_frame (s : State) (v : Word) (reg : Spr) :
    s.writeSpr v reg = { s with
      regs := { (s.writeSpr v reg).regs with
        gpr := s.regs.gpr, vsr := s.regs.vsr, fpscr := s.regs.fpscr, fex := s.regs.fex, vscr := s.regs.vscr
        tar := s.regs.tar }
      xer := (s.writeSpr v reg).xer, sprs := (s.writeSpr v reg).sprs, draws := (s.writeSpr v reg).draws } := by
  cases reg <;> rfl

/-! ### The statements -/

/-- Settles O35: the register written, every register that shares no storage with it, and the rest of the thread. -/
theorem sprWriteEffect : Obligations.SprWriteEffect := fun s v reg =>
  ⟨s.writeSpr_written v reg, fun _ h => s.readSpr_writeSpr_of_whole_ne v h, s.writeSpr_frame v reg⟩

/-- The upper half of a doubleword, as a number. -/
theorem upperHalf_toNat (x : Word) : ((upperHalf x).setWidth 64).toNat = x.toNat / 2 ^ 32 := by
  rw [BitVec.toNat_setWidth_of_le (by decide), upperHalf, BitVec.extractLsb'_toNat, Nat.shiftRight_eq_div_pow]
  have hx := x.isLt
  omega

/-- Settles O38: the rows by computation, TEXASRU as the upper half of TEXASR. -/
theorem tmSprNumbers : Obligations.TmSprNumbers :=
  ⟨by decide, by decide, fun s => ⟨rfl, rfl, rfl, upperHalf_toNat s.sprs.texasr⟩⟩

end Sys2Proof.Machine
end

section
/-!
PROOFS. The state after reset (10_state.md rule R61).
-/

namespace Sys2Proof.Machine

variable (vector : Word) (params : Params) (pcr : Word) (controls : Controls)

/-- Reset leaves the thread Non-transactional: LE is no bit of MSR.TS. -/
@[simp] theorem State.resetAt_ts : (State.resetAt vector params pcr controls).ts = tsN :=
  (msrTs_putBit _ 63 _ (by decide)).trans (by decide)

/-- TM is disabled after reset (D12). -/
@[simp] theorem State.resetAt_msrTm : msrTm (State.resetAt vector params pcr controls).msr = false :=
  (bit_putBit _ 63 31 _ (by decide) (by decide)).trans (by rw [if_neg (by decide)]; decide)

/-- The endianness after reset is HILE's (R341). -/
@[simp] theorem State.resetAt_msrLe : msrLe (State.resetAt vector params pcr controls).msr = controls.hile :=
  bit_putBit _ 63 63 _ (by decide) (by decide)

/-- An idle facility holds no transaction. -/
theorem noTransaction_idle : noTransaction Facility.idle := by simp [noTransaction, Facility.idle]

/-- Reset meets the invariant: in Non-transactional state it asks for storage in canonical form, an aligned NIA and no transaction held
(R61, R185). -/
theorem State.resetAt_inv : (State.resetAt vector params pcr controls).Inv where
  memory := State.reset_mem_wf
  tsLegal := by rw [State.resetAt_ts]; decide
  tmEnabled h := by rw [State.resetAt_ts] at h; exact absurd h (by decide)
  idle _ := rfl
  checkpoint h := absurd (State.resetAt_ts ..) h
  niaAligned := wordAlign_wordAlign vector
  txData := ⟨List.Pairwise.nil, fun _ hc => by cases hc⟩
  owed h := by cases h
  doomed h := absurd (State.resetAt_ts ..) h
  discarded h := by cases h
  level h := absurd (State.resetAt_ts ..) h
  asleep h := absurd rfl h

/-- Settles O7: the thread is Non-transactional, its facility idle and its storage empty. -/
theorem resetInvariant : Obligations.ResetInvariant := State.resetAt_inv

/-- Settles O8: the MSR bits of `State.resetAt`, and its other fields by computation. -/
theorem resetState : Obligations.ResetState := fun _ _ _ _ =>
  ⟨State.resetAt_ts .., State.resetAt_msrTm .., State.resetAt_msrLe .., noTransaction_idle, rfl, rfl, rfl, rfl, rfl⟩

end Sys2Proof.Machine
end

section
/-!
PROOFS. A Load in Transactional state (20_memory.md rules R81, R83, R97; 10_state.md rule R54; 43_tm_suspend_check.md rule R221).
-/

namespace Sys2Proof.Machine

/-! ### Before the bytes are read -/

/-- The thread when a Load that nothing stops reads its bytes: the access is recorded and logged, and a conflict on what it would show is
detected. -/
def State.loadStart (s : State) (addrs : List Nat) : State :=
  ((s.tick.tick.recordAccess false addrs).logAccess false addrs).detectOverwritten addrs

/-- What a Load does before it reads its bytes: Reference bits, log and draws, and of the facility only the causes of failure, where a
certain one is undetected (R54, R105). -/
theorem State.loadStart_frame (s : State) (addrs : List Nat) :
    ∃ tdoomed pending latent log draws,
      s.loadStart addrs = { s with
        tm := { s.tm with tdoomed := tdoomed, pending := pending, latent := latent }
        storageLog := log, draws := draws, pages := (s.loadStart addrs).pages } ∧
      accessMarked false addrs s (s.loadStart addrs) ∧ (s.tm.tdoomed = true → tdoomed = true) ∧
      ((∀ l, l ∈ s.tm.latent → l.certain = false) →
        tdoomed = s.tm.tdoomed ∧ pending = s.tm.pending ∧ latent = s.tm.latent) := by
  unfold State.loadStart
  obtain ⟨r, c, log, draws, hc, hr, hu⟩ := s.beforeAccess_frame false addrs
  rw [hu]
  by_cases hcertain : ∀ l, l ∈ s.tm.latent → l.certain = false
  · rw [State.detectOverwritten_of_none (by exact hcertain)]
    exact ⟨_, _, _, log, draws, rfl, ⟨r, c, hc, hr, rfl⟩, id, fun _ => ⟨rfl, rfl, rfl⟩⟩
  · exact ⟨_, _, _, log, _, rfl, ⟨r, c, hc, hr, rfl⟩, fun h => by simp [h], fun h => absurd h hcertain⟩

/-! ### What the load returns -/

/-- The bytes a Load reads once it has started (R81 d): each is the transaction's own or storage's; before failure the first, once the updates
are discarded the second. -/
theorem State.loadBytes_loadStart {s : State} (h : s.ts = tsT) (addrs : List Nat) :
    let bytes := (s.loadStart addrs).loadBytes addrs
    (∀ x, x ∈ bytes.zip addrs → x.1 = seenByte s x.2 ∨ x.1 = s.mem.read x.2) ∧
      (s.tm.tdoomed = false → s.tm.updatesDiscarded = false → (∀ l, l ∈ s.tm.latent → l.certain = false) →
        bytes = addrs.map (seenByte s)) ∧
      (s.tm.updatesDiscarded = true → bytes = addrs.map s.mem.read) := by
  obtain ⟨tdoomed, pending, latent, log, draws, hu, -, -, hcauses⟩ := s.loadStart_frame addrs
  generalize s.loadStart addrs = u at hu
  have hown : u.loadByte true = seenByte s := by rw [hu]; rfl
  have hmem : u.loadByte false = s.mem.read := by rw [hu]; rfl
  refine ⟨fun x hx => ?_, fun hd hdisc hlat => ?_, fun hdisc => ?_⟩
  · rw [← hown, ← hmem]
    exact u.loadBytes_mem hx
  · rw [← hown]
    refine State.loadBytes_of_uniform (State.seesOwnStore_of_live ?_ ?_ ?_) addrs
    · rw [hu]; exact h
    · rw [hu]; exact (hcauses hlat).1.trans hd
    · rw [hu]; exact hdisc
  · rw [← hmem]
    refine State.loadBytes_of_uniform (State.seesOwnStore_of_discarded ?_) addrs
    rw [hu]; exact hdisc

/-- A ROT's tcheck waits for a load that hits a byte the transaction wrote (R221). -/
theorem State.awaitedBytes_of_rot_written {s : State} (hr : s.rot = true) {f : Foot} (hf : f ∈ s.tm.writeSet) {addrs : List Nat}
    (h : f.addr ∈ addrs) : s.awaitedBytes addrs = addrs := by
  unfold State.awaitedBytes State.awaitsLoad
  rw [hr, if_pos]
  simp only [Bool.or_eq_true, List.any_eq_true]
  exact .inr ⟨f, hf, List.contains_iff_mem.2 h⟩

/-- It waits for no other load (R221). -/
theorem State.awaitedBytes_of_rot_unwritten {s : State} (hr : s.rot = true) {addrs : List Nat}
    (h : ∀ f, f ∈ s.tm.writeSet → f.addr ∉ addrs) : s.awaitedBytes addrs = [] := by
  unfold State.awaitedBytes State.awaitsLoad
  rw [hr, if_neg]
  simpa using h

/-! ### The registers -/

/-- Loaded values placed and registers updated: the registers, CR and XER are those of any thread with the same registers and byte order, and
nothing else changes. -/
theorem State.place_writeRegs_congr {s t : State} (hregs : t.regs = s.regs) (hcr : t.cr = s.cr) (hxer : t.xer = s.xer)
    (horder : t.byteOrder = s.byteOrder) (bytes : List Byte) (parts : List LoadPart) (updates : List RegWrite) :
    (t.place bytes parts).writeRegs updates = { t with
      regs := ((s.place bytes parts).writeRegs updates).regs, cr := ((s.place bytes parts).writeRegs updates).cr
      xer := ((s.place bytes parts).writeRegs updates).xer } := by
  have hp : t.place bytes parts =
      { t with regs := (s.place bytes parts).regs, cr := (s.place bytes parts).cr, xer := (s.place bytes parts).xer } := by
    rw [t.place_frame, State.place_congr hregs horder, s.place_frame, ← hcr, ← hxer]
  rw [hp, State.writeRegs_congr]

/-- The bytes of a Load of one General Purpose Register, zero-extended, are that register's new value (log 39). -/
theorem State.place_gpr (s : State) (rt : RegNum) (bytes : List Byte) :
    s.place bytes [⟨.gpr rt, 0, bytes.length, false, .zero⟩] =
      s.setGpr rt ((joinBytes (storageOrder s.byteOrder bytes)).setWidth 64) := by
  simp [State.place, LoadPart.value, Extension.apply, State.setData, State.dataOrder]

/-- At most 8 bytes joined fit in a General Purpose Register. -/
theorem joinBytes_setWidth_toNat (l : List Byte) (h : l.length ≤ 8) : ((joinBytes l).setWidth 64).toNat = numberOf l := by
  have hlt : numberOf l < 2 ^ 64 :=
    calc numberOf l < 256 ^ l.length := numberOf_lt l
      _ ≤ 256 ^ 8 := Nat.pow_le_pow_right (by decide) h
      _ = 2 ^ 64 := by norm_num
  rw [BitVec.toNat_setWidth, joinBytes_toNat l (by omega), Nat.mod_eq_of_lt hlt]

/-! ### The Load, whole -/

/-- A Load of a transaction that nothing stops (R81). -/
theorem State.loadTo_transactional {s : State} (h : s.ts = tsT) {ea : Word} {n : Nat}
    (hclear : accessClear s false (s.operandAddresses ea n)) (parts : List LoadPart) (updates : List RegWrite) :
    let addrs := s.operandAddresses ea n
    let u := s.loadStart addrs
    let placed := (s.place (u.loadBytes addrs) parts).writeRegs updates
    s.loadTo ea n parts updates = .next { s with
      tm := { u.tm with
        readSet := if s.rot then s.tm.readSet else s.tm.readSet ++ addrs.map fun a => ⟨a, s.nia⟩
        rotReads := if s.rot then s.tm.rotReads ++ addrs.map fun a => ⟨a, s.nia⟩ else s.tm.rotReads
        awaited := s.tm.awaited ++ s.awaitedBytes addrs }
      regs := placed.regs, cr := placed.cr, xer := placed.xer, nia := s.nia + 4, completed := true, pages := u.pages
      storageLog := u.storageLog, draws := u.draws + addrs.length } := by
  intro addrs u placed
  have hexec : s.loadTo ea n parts updates =
      .next (((((u.noteLoad addrs).ticks addrs.length).place (u.loadBytes addrs) parts).writeRegs updates).complete) := by
    unfold State.loadTo
    exact s.dataAccess_of_clear false addrs [] _ hclear
  obtain ⟨tdoomed, pending, latent, log, draws, hu, -, -, -⟩ := s.loadStart_frame addrs
  change u = _ at hu
  have huT : u.ts = tsT := by rw [hu]; exact h
  rw [hexec, State.noteLoad_of_transactional huT, State.place_writeRegs_congr (s := s)]
  · dsimp only [placed]
    generalize u.loadBytes addrs = bytes
    rw [hu]
    rfl
  all_goals (rw [hu]; rfl)

/-- What a tcheck waits for after a load in Transactional state (R221): a normal transaction's loads all, a ROT's where they hit a byte it
wrote. -/
theorem State.awaitedBytes_of_waited {s : State} (h : s.ts = tsT) {addrs : List Nat}
    (hw : s.rot = false ∨ ∃ f, f ∈ s.tm.writeSet ∧ f.addr ∈ addrs) : s.awaitedBytes addrs = addrs := by
  cases hr : s.rot with
  | false => exact State.awaitedBytes_of_normal h hr addrs
  | true =>
    obtain ⟨f, hf, hfa⟩ := hw.resolve_left (by simp [hr])
    exact State.awaitedBytes_of_rot_written hr hf hfa

/-- A Load into one General Purpose Register, zero-extended, whole: that register, and no other (log 39). -/
theorem State.place_loadGpr {s : State} {ea : Word} {n : Nat} {bytes : List Byte} {parts : List LoadPart} {updates : List RegWrite}
    {rt : RegNum} (hlen : bytes.length = n) (hform : .load ea n parts updates = BaseInstr.loadGpr rt ea n) :
    (s.place bytes parts).writeRegs updates = s.setGpr rt ((joinBytes (storageOrder s.byteOrder bytes)).setWidth 64) := by
  obtain ⟨-, -, rfl, rfl⟩ := BaseInstr.load.inj hform
  subst hlen
  exact s.place_gpr rt bytes

/-- Settles O57: the Load whole (`State.loadTo_transactional`), with the bytes it reads, what a tcheck then waits for and, for the form of one
General Purpose Register, its new value. -/
theorem loadTransactional : Obligations.LoadTransactional := by
  intro ea n parts updates s h hclear
  have hexec := State.loadTo_transactional h hclear parts updates
  obtain ⟨hread, hlive, hdropped⟩ := State.loadBytes_loadStart h (s.operandAddresses ea n)
  obtain ⟨tdoomed, pending, latent, log, draws, hu, hmarked, hdoomed, hcauses⟩ := s.loadStart_frame (s.operandAddresses ea n)
  have hlen : ((s.loadStart (s.operandAddresses ea n)).loadBytes (s.operandAddresses ea n)).length = n := by
    simp [State.operandAddresses]
  have htm := congrArg State.tm hu
  dsimp only at hexec
  generalize (s.loadStart (s.operandAddresses ea n)).loadBytes (s.operandAddresses ea n) = bytes at hexec hread hlive hdropped hlen
  rw [htm] at hexec
  refine ⟨_, bytes, hexec, hlen, hread, hlive, hdropped, rfl, fun hw => ?_, fun hr hw => ?_, hdoomed, hcauses, hmarked, rfl,
    fun hnil => ?_, fun rt hn hform => ?_⟩
  · exact congrArg (s.tm.awaited ++ ·) (State.awaitedBytes_of_waited h hw)
  · exact (congrArg (s.tm.awaited ++ ·) (State.awaitedBytes_of_rot_unwritten hr hw)).trans (List.append_nil _)
  · subst hnil
    dsimp only [State.writeRegs, List.foldl_nil]
    rw [s.place_frame]
    exact ⟨rfl, rfl⟩
  · rw [State.place_loadGpr hlen hform]
    refine ⟨rfl, fun q hq => s.gpr_setGpr_of_ne rt q _ hq, ?_⟩
    have hbytes : (storageOrder s.byteOrder bytes).length ≤ 8 := by rwa [storageOrder_length, hlen]
    exact (congrArg BitVec.toNat (s.gpr_setGpr rt _)).trans (joinBytes_setWidth_toNat _ hbytes)

end Sys2Proof.Machine
end

section
/-!
PROOFS. Isolation: in Transactional state a step leaves storage as it was, unless it is a tend. that commits (20_memory.md rules R82, R87, R89;
40_tm_states_failure.md rule R170).
-/

namespace Sys2Proof.Machine

/-! ### Results that keep storage -/

/-- Where the result is a next state, its storage is `m`. -/
def keepsStorage (m : Memory) (r : Result) : Prop := ∀ t, r = .next t → t.mem = m

variable {m : Memory} {s : State}

theorem keepsStorage.next {t : State} (h : t.mem = m) : keepsStorage m (.next t) := by rintro u ⟨⟩; exact h

theorem keepsStorage.fault (r : Fault) : keepsStorage m (.fault r) := by rintro u ⟨⟩

theorem keepsStorage.refused (r : Refusal) : keepsStorage m (.refused r) := by rintro u ⟨⟩

/-- Failure handling stores nothing (R176). -/
theorem State.handleFailure_keepsStorage (h : s.mem = m) : keepsStorage m s.handleFailure := by
  unfold State.handleFailure
  split
  · exact .fault _
  · exact .next h

theorem State.handlePending_keepsStorage (h : s.mem = m) : keepsStorage m s.handlePending :=
  State.handleFailure_keepsStorage (s.recordPending_mem.trans h)

theorem State.failNotExecuted_keepsStorage (h : s.mem = m) (cause : Word32) : keepsStorage m (s.failNotExecuted cause) :=
  State.handleFailure_keepsStorage ((State.recordFailure_mem _ _ _).trans h)

theorem State.failDisallowed_keepsStorage (h : s.mem = m) : keepsStorage m s.failDisallowed :=
  State.failNotExecuted_keepsStorage h _

theorem State.guardTm_keepsStorage (h : s.mem = m) {body : Result} (hb : keepsStorage m body) : keepsStorage m (s.guardTm body) := by
  rcases State.guardTm_cases (rfl : s.guardTm body = _) with ⟨-, e⟩ | ⟨-, e⟩ | ⟨-, e⟩ | ⟨-, e⟩ <;> rw [e]
  · exact hb
  · exact .next h
  · exact .next h
  · exact .refused _

theorem State.guardLevel_keepsStorage (h : s.mem = m) (level : PrivLevel) {body : Result} (hb : keepsStorage m body) :
    keepsStorage m (s.guardLevel level body) := by
  rcases State.guardLevel_cases (rfl : s.guardLevel level body = _) with ⟨-, e⟩ | ⟨-, e⟩ <;> rw [e]
  · exact hb
  · exact .next h

/-- A trace, or the interrupt that comes in its place, stores nothing. -/
theorem traceAfter_keepsStorage (traced : Bool) {r : Result} (h : keepsStorage m r) : keepsStorage m (traceAfter traced r) := by
  rcases traceAfter_cases (rfl : traceAfter traced r = _) with e | ⟨t, rfl, -, -, ⟨-, e⟩ | ⟨-, e⟩⟩ <;> rw [e]
  · exact h
  · exact .next (h t rfl)
  · exact .next (h t rfl)

/-! ### The instructions of the table -/

theorem State.abortIf_keepsStorage (h : s.mem = m) (condition : Bool) (cause : Word32) : keepsStorage m (s.abortIf condition cause) := by
  unfold State.abortIf State.abort
  dsimp only
  split
  · split
    · exact State.handleFailure_keepsStorage (by simpa using h)
    · exact .next (by simpa using h)
  · exact .next h

theorem State.afterResume_keepsStorage (h : s.mem = m) : keepsStorage m s.afterResume := by
  unfold State.afterResume
  split
  · exact State.handleFailure_keepsStorage h
  · exact .next h

theorem State.loadMsr_keepsStorage (h : s.mem = m) (image loaded : Word) (next : Word → Word) (traced : Bool) :
    keepsStorage m (s.loadMsr image loaded next traced) := by
  rcases State.loadMsr_cases (rfl : s.loadMsr image loaded next traced = _) with
    ⟨-, e⟩ | ⟨-, -, ⟨-, e⟩ | ⟨-, -, e⟩ | ⟨-, -, e⟩⟩ <;> rw [e]
  · exact .next h
  · exact .next h
  · exact State.afterResume_keepsStorage h
  · exact .next h

theorem State.unlessTransactional_keepsStorage (h : s.mem = m) {body : Result} (hb : keepsStorage m body) :
    keepsStorage m (s.unlessTransactional body) := by
  unfold State.unlessTransactional
  split
  · exact State.failDisallowed_keepsStorage h
  · exact hb

theorem State.enterPowerSaving_keepsStorage (h : s.mem = m) (level : PowerLevel) : keepsStorage m (s.enterPowerSaving level) := by
  refine State.guardLevel_keepsStorage h _ ?_
  split
  · exact State.failDisallowed_keepsStorage h
  · split <;> exact .next h

theorem State.writeSpr_mem (s : State) (v : Word) (reg : Spr) : (s.writeSpr v reg).mem = s.mem :=
  by rw [s.writeSpr_frame v reg]

theorem State.undefinedSpr_mem (s : State) (n : Nat) : (s.undefinedSpr n).mem = s.mem := by
  unfold State.undefinedSpr
  repeat' split
  all_goals rfl

theorem State.moveToSpr_keepsStorage (h : s.mem = m) (reg : Spr) (v : Word) : keepsStorage m (s.moveToSpr reg v) := by
  have hwrite : keepsStorage m (.next (s.writeSpr v reg).complete) := .next ((s.writeSpr_mem v reg).trans h)
  unfold State.moveToSpr
  split
  · refine State.guardTm_keepsStorage h ?_
    split
    · exact hwrite
    · exact .next h
  · split
    · exact State.failDisallowed_keepsStorage h
    · exact hwrite

theorem execMfspr_keepsStorage (h : s.mem = m) (rt : RegNum) (n : Nat) : keepsStorage m (execMfspr rt n s) := by
  unfold execMfspr
  split
  · exact .next ((s.undefinedSpr_mem n).trans h)
  · refine State.guardLevel_keepsStorage h _ ?_
    split
    · exact State.guardTm_keepsStorage h (.next h)
    · exact .next h

theorem execMtspr_keepsStorage (h : s.mem = m) (n : Nat) (rs : RegNum) : keepsStorage m (execMtspr n rs s) := by
  unfold execMtspr
  split
  · unfold State.moveToUndefinedSpr
    split
    · exact State.failDisallowed_keepsStorage h
    · exact .next ((s.undefinedSpr_mem n).trans h)
  · exact State.guardLevel_keepsStorage h _ (State.moveToSpr_keepsStorage h _ _)

theorem execMtmsrd_keepsStorage (h : s.mem = m) (rs : RegNum) (l : Bool) : keepsStorage m (execMtmsrd rs l s) := by
  refine State.guardLevel_keepsStorage h _ (State.unlessTransactional_keepsStorage h ?_)
  split
  · exact .next h
  · exact State.loadMsr_keepsStorage h _ _ _ _

theorem State.beginNested_mem (s : State) (rot : Bool) : (s.beginNested rot).mem = s.mem := by
  unfold State.beginNested
  dsimp only
  split <;> rfl

theorem State.beginTransaction_keepsStorage (h : s.mem = m) (rot : Bool) : keepsStorage m (s.beginTransaction rot) := by
  unfold State.beginTransaction
  dsimp only
  split
  · unfold State.beginOuter
    cases rot <;> exact .next h
  · split
    · split
      · exact State.failNotExecuted_keepsStorage (s := s.setCr0State) h _
      · exact .next ((State.beginNested_mem _ _).trans h)
    · exact .next h

theorem State.suspendOrResume_keepsStorage (h : s.mem = m) (resume : Bool) : keepsStorage m (s.suspendOrResume resume) := by
  unfold State.suspendOrResume
  dsimp only
  split
  · split
    · exact State.afterResume_keepsStorage h
    · exact .next h
  · split <;> exact .next h

theorem State.check_mem (s : State) (bf : BitVec 3) : (s.check bf).mem = s.mem := by
  unfold State.check
  split <;> rfl

theorem State.reclaim_keepsStorage (h : s.mem = m) (ra : RegNum) : keepsStorage m (s.reclaim ra) := by
  unfold State.reclaim
  split
  · exact .fault _
  · exact .next ((State.recordFailure_mem _ _ _).trans h)

/-- No instruction of the table but tend. stores. -/
theorem exec_keepsStorage {i : Instr} (hi : ∀ a, i ≠ .tend a) (h : s.mem = m) : keepsStorage m (exec i s) := by
  cases i with
  | tbegin a r => exact State.guardTm_keepsStorage h (State.beginTransaction_keepsStorage h r)
  | tend a => exact absurd rfl (hi a)
  | tabort | tabortwc | tabortwci | tabortdc | tabortdci =>
    exact State.guardTm_keepsStorage h (State.abortIf_keepsStorage h _ _)
  | tsr l => exact State.guardTm_keepsStorage h (State.suspendOrResume_keepsStorage h l)
  | tcheck bf => exact State.guardTm_keepsStorage h (.next ((s.check_mem bf).trans h))
  | treclaim ra =>
    refine State.guardLevel_keepsStorage h _ (State.guardTm_keepsStorage h ?_)
    split
    · exact .next h
    · exact State.reclaim_keepsStorage h ra
  | trechkpt =>
    refine State.guardLevel_keepsStorage h _ (State.guardTm_keepsStorage h ?_)
    split <;> exact .next h
  | mfspr rt spr => exact execMfspr_keepsStorage h rt spr
  | mtspr spr rs => exact execMtspr_keepsStorage h spr rs
  | mtmsrd rs l => exact execMtmsrd_keepsStorage h rs l
  | rfid | hrfid =>
    exact State.guardLevel_keepsStorage h _ (State.unlessTransactional_keepsStorage h (State.loadMsr_keepsStorage h _ _ _ _))
  | doze | nap | sleep | rvwinkle => exact State.enterPowerSaving_keepsStorage h _

/-! ### Base instructions in Transactional state -/

theorem State.mayTouchPages_mem (s : State) (addrs : List Nat) (mayChange : Bool) : (s.mayTouchPages addrs mayChange).mem = s.mem := rfl

theorem State.mayTouchPages_ts (s : State) (addrs : List Nat) (mayChange : Bool) : (s.mayTouchPages addrs mayChange).ts = s.ts := rfl

theorem State.writeRegs_mem (s : State) (ws : List RegWrite) : (s.writeRegs ws).mem = s.mem := by rw [s.writeRegs_frame ws]

theorem State.noteLoad_mem (s : State) (addrs : List Nat) : (s.noteLoad addrs).mem = s.mem := by
  unfold State.noteLoad State.noteRead
  dsimp only
  repeat' split
  all_goals rfl

theorem State.dataInterrupt_mem (s : State) (e : DataException) : (s.dataInterrupt e).mem = s.mem := rfl

/-- A store in Transactional state leaves storage as others see it (R82). -/
theorem State.storeCells_mem_of_transactional (hT : s.ts = tsT) (cells : List Host.Cell) : (s.storeCells cells).mem = s.mem := by
  rw [State.storeCells_of_transactional hT]
  rfl

/-- The bytes of a stopped access that are performed all the same leave storage too (R112). -/
theorem State.accessOthers_mem_of_transactional (hT : s.ts = tsT) (st : Bool) (addrs : List Nat) (cells : List Host.Cell) :
    (s.accessOthers st addrs cells).mem = s.mem := by
  unfold State.accessOthers
  dsimp only
  split
  · obtain ⟨r, c, draws, -, -, e⟩ := (s.ticks addrs.length).recordAccess_frame true
      ((s.someOf (cells.filter fun c => s.byteRuns true c.1)).map (·.1))
    rw [e]
    exact State.storeCells_mem_of_transactional (by exact hT) _
  · obtain ⟨r, c, draws, -, -, e⟩ := (s.ticks addrs.length).recordAccess_frame false (s.someOf (addrs.filter (s.byteRuns false)))
    rw [e]
    exact State.noteLoad_mem _ _

theorem State.stopAccess_keepsStorage (hT : s.ts = tsT) (h : s.mem = m) (st : Bool) (addrs : List Nat) (cells : List Host.Cell)
    (stop : AccessStop) : keepsStorage m (s.stopAccess st addrs cells stop) := by
  rcases State.stopAccess_cases (rfl : s.stopAccess st addrs cells stop = _) with ⟨e, before, -, hr⟩ | ⟨-, hr⟩ | ⟨-, hr⟩ <;> rw [hr]
  · refine .next ?_
    rw [State.dataInterrupt_mem, State.accessOthers_mem_of_transactional ((s.mayTouchPages_ts _ _).trans hT), State.mayTouchPages_mem, h]
  · exact State.failDisallowed_keepsStorage ((s.mayTouchPages_mem _ _).trans h)
  · exact State.handlePending_keepsStorage ((s.mayTouchPages_mem _ _).trans h)

/-- A data access in Transactional state leaves storage if what it performs does. -/
theorem State.dataAccess_keepsStorage (hT : s.ts = tsT) (h : s.mem = m) (st : Bool) (addrs : List Nat) (cells : List Host.Cell)
    {perform : State → Result} (hp : ∀ u : State, u.ts = tsT → u.mem = m → keepsStorage m (perform u)) :
    keepsStorage m (s.dataAccess st addrs cells perform) := by
  unfold State.dataAccess
  dsimp only
  split
  · obtain ⟨r, c, log, draws, -, -, e⟩ := s.beforeAccess_frame st addrs
    rw [e]
    refine hp _ ?_ ?_
    · exact hT
    · exact h
  · exact State.stopAccess_keepsStorage (s := s.tick.tick) hT h st addrs cells _

theorem State.loadTo_keepsStorage (hT : s.ts = tsT) (h : s.mem = m) (ea : Word) (size : Nat) (parts : List LoadPart)
    (updates : List RegWrite) : keepsStorage m (s.loadTo ea size parts updates) := by
  unfold State.loadTo
  refine State.dataAccess_keepsStorage hT h _ _ _ fun u _ hu => .next ?_
  rw [State.complete_mem, State.writeRegs_mem, State.place_frame]
  exact (State.noteLoad_mem _ _).trans hu

/-- A Store in Transactional state, whatever else the instruction does to the thread (R82). -/
theorem State.storeAt_keepsStorage (hT : s.ts = tsT) (h : s.mem = m) (cells : List Host.Cell) {after : State → State}
    (ha : ∀ u, (after u).mem = u.mem) : keepsStorage m (s.storeAt cells after) := by
  unfold State.storeAt
  refine State.dataAccess_keepsStorage hT h _ _ _ fun u hu hm => .next ?_
  rw [State.complete_mem, ha, State.storeCells_mem_of_transactional hu, hm]

theorem State.mayBeDisallowed_keepsStorage (hT : s.ts = tsT) (h : s.mem = m) (addrs : List Nat) {body : State → Result}
    (hb : ∀ u : State, u.ts = tsT → u.mem = m → keepsStorage m (body u)) : keepsStorage m (s.mayBeDisallowed addrs body) := by
  unfold State.mayBeDisallowed
  split
  · exact State.failDisallowed_keepsStorage ((s.tick.mayTouchPages_mem _ _).trans h)
  · exact hb s.tick hT h

theorem State.neverInT_keepsStorage (hT : s.ts = tsT) (h : s.mem = m) (addrs : List Nat) (body : Result) :
    keepsStorage m (s.neverInT addrs body) := by
  unfold State.neverInT
  rw [if_pos hT]
  exact State.failDisallowed_keepsStorage ((s.mayTouchPages_mem _ _).trans h)

theorem State.disallowedInT_keepsStorage (hT : s.ts = tsT) (h : s.mem = m) (body : State) : keepsStorage m (s.disallowedInT body) := by
  unfold State.disallowedInT
  rw [if_pos hT]
  exact State.failDisallowed_keepsStorage h

theorem State.readDevice_keepsStorage (hT : s.ts = tsT) (h : s.mem = m) (rt : RegNum) (ea : Word) :
    keepsStorage m (s.readDevice rt ea) := by
  unfold State.readDevice
  refine State.dataAccess_keepsStorage hT h _ _ _ fun u _ hu => .next ?_
  rw [State.complete_mem, State.setGpr_mem, State.log_mem, State.tick_mem, State.noteLoad_mem, hu]

theorem State.loadReserve_keepsStorage (hT : s.ts = tsT) (h : s.mem = m) (rt : RegNum) (ea : Word) (size : AccessSize) :
    keepsStorage m (execBaseInstr (.loadReserve rt ea size) s) := by
  have hload : keepsStorage m (s.loadGpr rt ea size) := State.loadTo_keepsStorage hT h ea _ _ _
  unfold execBaseInstr
  dsimp only
  split
  · rename_i t ht
    have hmem := hload t ht
    split <;> exact .next hmem
  · exact hload

theorem State.storeConditional_keepsStorage (hT : s.ts = tsT) (h : s.mem = m) (rs : RegNum) (ea : Word) (size : AccessSize) :
    keepsStorage m (s.storeConditional rs ea size) := by
  unfold State.storeConditional
  split
  · exact State.storeAt_keepsStorage hT h _ fun _ => rfl
  · exact .next h

theorem State.cacheManage_keepsStorage (h : s.mem = m) (op : CacheOp) (ea : Word) : keepsStorage m (s.cacheManage op ea) := by
  unfold State.cacheManage
  dsimp only
  split
  · exact State.failDisallowed_keepsStorage h
  · split
    · exact .next ((State.arise_mem _ _).trans h)
    · exact .next h

theorem State.moveToMsr_keepsStorage (h : s.mem = m) (value : Word) : keepsStorage m (s.moveToMsr value) := by
  rcases State.moveToMsr_cases (rfl : s.moveToMsr value = _) with ⟨-, e⟩ | ⟨-, ⟨-, e⟩ | ⟨-, -, e⟩ | ⟨-, -, e⟩⟩ <;> rw [e]
  · exact .next h
  · exact State.failDisallowed_keepsStorage h
  · exact .next h
  · exact .next h

theorem State.waitInstruction_keepsStorage (hT : s.ts = tsT) (h : s.mem = m) : keepsStorage m s.waitInstruction := by
  unfold State.waitInstruction
  rw [if_neg (by simp [hT, tsT, tsS])]
  exact State.mayBeDisallowed_keepsStorage hT h _ fun u _ hu => .next hu

theorem State.floatingPoint_mem (s : State) (writes : List RegWrite) (fex : Bool) : (s.floatingPoint writes fex).mem = s.mem := by
  have hmem := s.writeRegs_mem writes
  unfold State.floatingPoint
  generalize s.writeRegs writes = t at hmem
  dsimp only
  split <;> exact hmem

theorem State.baseInterrupt_mem (s : State) (i : BaseInterrupt) : (s.baseInterrupt i).mem = s.mem := by
  cases i <;> rfl

/-- No base instruction stores in Transactional state: its stores are held back, and those that cannot be fail the transaction (R82, R87). -/
theorem execBaseInstr_keepsStorage (hT : s.ts = tsT) (h : s.mem = m) (b : BaseInstr) : keepsStorage m (execBaseInstr b s) := by
  cases b with
  | compute writes => exact .next ((s.writeRegs_mem writes).trans h)
  | floatingPoint writes fex => exact .next ((s.floatingPoint_mem writes fex).trans h)
  | branch taken link decrement target => exact .next h
  | load ea size parts updates => exact State.loadTo_keepsStorage hT h ea size parts updates
  | store ea parts updates => exact State.storeAt_keepsStorage hT h _ fun u => u.writeRegs_mem updates
  | dcbz ea => exact State.storeAt_keepsStorage hT h _ fun _ => rfl
  | loadReserve rt ea size => exact State.loadReserve_keepsStorage hT h rt ea size
  | storeConditional rs ea size => exact State.storeConditional_keepsStorage hT h rs ea size
  | cachingInhibitedLoad rt ea size =>
    exact State.mayBeDisallowed_keepsStorage hT h _ fun u hu hm => State.loadTo_keepsStorage hu hm _ _ _ _
  | eciwx rt ea => exact State.mayBeDisallowed_keepsStorage hT h _ fun u hu hm => State.readDevice_keepsStorage hu hm rt ea
  | cachingInhibitedStore | ecowx => exact State.neverInT_keepsStorage hT h _ _
  | cacheOp op ea => exact State.cacheManage_keepsStorage h op ea
  | tlbie | disallowed => exact State.disallowedInT_keepsStorage hT h _
  | mtmsr value => exact State.moveToMsr_keepsStorage h value
  | wait => exact State.waitInstruction_keepsStorage hT h
  | interrupt i => exact .next ((s.baseInterrupt_mem i).trans h)
  | storageException e index access => exact State.stopAccess_keepsStorage (s := s.tick.tick) hT h _ _ _ _
  | waitrsv | tlbia | barrier => exact .next h

/-! ### What happens before the instruction -/

/-- What happens at a boundary before an instruction, as far as isolation needs it: the transaction state, the address and the bytes of the
instruction stay, and, unless the transaction is doomed, so do its speculative storage updates. -/
structure Undisturbed (s u : State) : Prop where
  msr : u.msr = s.msr
  nia : u.nia = s.nia
  params : u.params = s.params
  mem : u.mem = s.mem
  live : u.tm.tdoomed = false → s.tm.tdoomed = false ∧ u.tm.txData = s.tm.txData

theorem Undisturbed.refl (s : State) : Undisturbed s s := ⟨rfl, rfl, rfl, rfl, fun h => ⟨h, rfl⟩⟩

theorem Undisturbed.trans {s u v : State} (h : Undisturbed s u) (k : Undisturbed u v) : Undisturbed s v where
  msr := k.msr.trans h.msr
  nia := k.nia.trans h.nia
  params := k.params.trans h.params
  mem := k.mem.trans h.mem
  live hv :=
    have ⟨hu, hdata⟩ := k.live hv
    ⟨(h.live hu).1, hdata.trans (h.live hu).2⟩

theorem Undisturbed.ts {s u : State} (h : Undisturbed s u) : u.ts = s.ts := State.ts_eq h.msr

/-- The same instruction is decoded. -/
theorem Undisturbed.fetchDecode {s u : State} (h : Undisturbed s u) : u.fetchDecode = s.fetchDecode := by
  simp only [State.fetchDecode, State.fetchBytes, State.fetchAddresses, State.operandAddresses, State.effective, State.byteOrder,
    h.msr, h.nia, h.params, h.mem]

/-- A change of the causes of failure and of nothing else but draws. -/
theorem Undisturbed.of_causes {s u : State} {tdoomed : Bool} {pending : List ImpreciseCause} {latent : List Latent} {draws : Nat}
    (hu : u = { s with tm := { s.tm with tdoomed := tdoomed, pending := pending, latent := latent }, draws := draws })
    (hd : s.tm.tdoomed = true → tdoomed = true) : Undisturbed s u := by
  subst hu
  exact ⟨rfl, rfl, rfl, rfl, fun h => ⟨Bool.eq_false_iff.2 fun hs => Bool.false_ne_true (h.symm.trans (hd hs)), rfl⟩⟩

/-- A change that dooms the transaction. -/
theorem Undisturbed.of_doomed {s u : State} (hmsr : u.msr = s.msr) (hnia : u.nia = s.nia) (hparams : u.params = s.params)
    (hmem : u.mem = s.mem) (hd : u.tm.tdoomed = true) : Undisturbed s u :=
  ⟨hmsr, hnia, hparams, hmem, fun h => absurd hd (by simp [h])⟩

/-- A change that reaches neither the transaction nor what an instruction is fetched by. -/
theorem Undisturbed.of_tm {s u : State} (hmsr : u.msr = s.msr) (hnia : u.nia = s.nia) (hparams : u.params = s.params)
    (hmem : u.mem = s.mem) (htm : u.tm = s.tm) : Undisturbed s u :=
  ⟨hmsr, hnia, hparams, hmem, fun h => by rw [htm] at *; exact ⟨h, rfl⟩⟩

theorem Undisturbed.tick (s : State) : Undisturbed s s.tick := .of_tm rfl rfl rfl rfl rfl

theorem Undisturbed.arise (s : State) (l : Latent) : Undisturbed s (s.arise l) :=
  have ⟨_, _, _, _, hu, hd⟩ := s.arise_frame l
  .of_causes hu hd

theorem Undisturbed.tick_arise (s : State) (l : Latent) : Undisturbed s (s.tick.arise l) :=
  (Undisturbed.tick s).trans (.arise s.tick l)

theorem Undisturbed.settle (s : State) (p : Latent → Bool) : Undisturbed s (s.settle p) :=
  have ⟨_, _, _, _, hu, hd⟩ := s.settle_frame p
  .of_causes hu hd

theorem Undisturbed.popTape (s : State) : Undisturbed s s.popTape := by
  unfold State.popTape
  split <;> exact .of_tm rfl rfl rfl rfl rfl

/-- No event of another processor but a store disturbs the thread (R76, R77). -/
theorem Undisturbed.applyExternal (s : State) {e : ExternalEvent} (he : isStoreEvent e = false) : Undisturbed s (s.applyExternal e) := by
  cases e with
  | load who addr size =>
    rcases s.externalConflict_cases who false (addressesFrom addr size) s.tm.writeSet s.tm.specWrites with h | ⟨l, h⟩
    · rw [State.applyExternal, h]
      exact .refl s
    · rw [State.applyExternal, h]
      exact .tick_arise s l
  | store who addr bytes => cases he
  | tlbie base size =>
    rw [State.applyExternal, State.translationInvalidated]
    split <;> exact .arise s _
  | cacheFlush addr | cacheClean addr =>
    rw [State.applyExternal]
    split
    · exact .tick_arise s _
    · exact .refl s
  | fetch addr =>
    rcases s.externalFetch_cases [addr.toNat] with h | ⟨ia, h⟩
    · rw [State.applyExternal, h]
      exact .refl s
    · rw [State.applyExternal, h]
      exact .tick_arise s _
  | loseReservation | raise i | perfmon i v => exact .of_tm rfl rfl rfl rfl rfl

theorem Undisturbed.applyExternals (s : State) {events : List ExternalEvent} (h : ∀ e, e ∈ events → isStoreEvent e = false) :
    Undisturbed s (s.applyExternals events) := by
  induction events generalizing s with
  | nil => exact .refl s
  | cons e rest ih =>
    exact (Undisturbed.applyExternal s (h e List.mem_cons_self)).trans (ih _ fun x hx => h x (List.mem_cons_of_mem _ hx))

theorem Undisturbed.mayTouchPages (s : State) (addrs : List Nat) (mayChange : Bool) : Undisturbed s (s.mayTouchPages addrs mayChange) :=
  .of_tm rfl rfl rfl rfl rfl

theorem Undisturbed.mayFailOn (s : State) (foot : List Foot) (c : ImpreciseCause) (addr : Nat) :
    Undisturbed s (s.mayFailOn foot c addr) := by
  rcases s.mayFailOn_cases foot c addr with h | h <;> rw [h]
  · exact .refl s
  · exact .arise s _

/-- An operation out of order stores nothing (R169). -/
theorem Undisturbed.speculate (s : State) (o : Option Speculation) : Undisturbed s (s.speculate o) := by
  rcases o with _ | (⟨addr, ia⟩ | ⟨addr, ia, required⟩ | ⟨addr, ia, required⟩ | ⟨op, addr, ia⟩ | ⟨base, size⟩ | ⟨addr, ia⟩)
  · exact .refl s
  · rw [State.speculate]
    split <;> exact ⟨rfl, rfl, rfl, rfl, fun h => ⟨h, rfl⟩⟩
  · rw [State.speculate]
    split <;> exact ⟨rfl, rfl, rfl, rfl, fun h => ⟨h, rfl⟩⟩
  · exact (Undisturbed.mayTouchPages s _ _).trans (.mayFailOn _ _ _ _)
  · rw [State.speculate]
    split
    · exact (Undisturbed.mayTouchPages s _ _).trans (.mayFailOn _ _ _ _)
    · exact .mayTouchPages s _ _
  · exact .arise s _
  · exact (Undisturbed.mayTouchPages s _ _).trans (.mayFailOn _ _ _ _)

theorem Undisturbed.agentTouch (s : State) (o : Option (Nat × Bool)) : Undisturbed s (s.agentTouch o) := by
  unfold State.agentTouch
  split
  · exact .refl s
  · split
    · exact .refl s
    · exact .of_tm rfl rfl rfl rfl rfl

theorem Undisturbed.detect (s : State) (c : ImpreciseCause) : Undisturbed s (s.detect c) := by
  unfold State.detect
  split
  · exact .of_doomed rfl rfl rfl rfl rfl
  · exact .refl s

theorem Undisturbed.agentDetect (s : State) (o : Option Detection) : Undisturbed s (s.agentDetect o) := by
  rcases o with _ | (_ | _ | implSpecific | i)
  · exact .refl s
  · exact (Undisturbed.tick s).trans (.detect _ _)
  · exact .detect s _
  · exact .detect s _
  · rw [State.agentDetect]
    split
    · exact .refl s
    · refine Undisturbed.trans ?_ (.detect _ _)
      exact ⟨rfl, rfl, rfl, rfl, fun h => ⟨h, rfl⟩⟩

/-- A recording dooms the transaction, or does nothing (R170, R172). -/
theorem Undisturbed.recordPending (s : State) : Undisturbed s s.recordPending := by
  have htm := s.recordPending_tm
  split at htm
  · exact .of_tm s.recordPending_msr s.recordPending_nia s.recordPending_params s.recordPending_mem htm
  · exact .of_doomed s.recordPending_msr s.recordPending_nia s.recordPending_params s.recordPending_mem (by rw [htm])

theorem Undisturbed.agentRecord (s : State) (record : Bool) : Undisturbed s (s.agentRecord record) := by
  unfold State.agentRecord
  split
  · exact .recordPending s
  · exact .refl s

/-- Only a doomed transaction's updates are discarded (R55, R184 step 5). -/
theorem Undisturbed.agentDiscard (s : State) (discard : Bool) : Undisturbed s (s.agentDiscard discard) := by
  unfold State.agentDiscard
  split
  · rename_i h
    simp only [Bool.and_eq_true] at h
    exact .of_doomed rfl rfl rfl rfl h.2
  · exact .refl s

theorem Undisturbed.agent (s : State) (d : AgentDraw) : Undisturbed s (s.agent d) :=
  ((((Undisturbed.speculate s d.speculate).trans (.agentTouch _ _)).trans (.agentDetect _ _)).trans (.agentRecord _ _)).trans
    (.agentDiscard _ _)

theorem Undisturbed.afterFetch (s : State) : Undisturbed s s.afterFetch := by
  have hnote : Undisturbed s (s.noteExecuted.tick.tick.touchPages s.fetchAddresses true false) := by
    unfold State.noteExecuted
    split <;> exact ⟨rfl, rfl, rfl, rfl, fun h => ⟨h, rfl⟩⟩
  have hsettle := hnote.trans (.settle _ (·.overwrote s.fetchAddresses))
  unfold State.afterFetch
  dsimp only
  split
  · exact hsettle.trans (.arise _ _)
  · exact hsettle

theorem Undisturbed.fetched (s : State) (b : Boundary) : Undisturbed s (s.fetched b) :=
  (Undisturbed.afterFetch s).trans (.agentRecord _ _)

/-! ### The step -/

/-- A transaction that is not doomed commits: it stores its speculative storage updates and is Non-transactional after it (R89, R203). -/
def commits (s t : State) : Prop := s.tm.tdoomed = false ∧ t.ts = tsN ∧ t.mem = s.mem.writeCells s.tm.txData

/-- What isolation allows from a state in Transactional state. -/
def isolates (s t : State) : Prop :=
  t.mem = s.mem ∨ (s.tm.tdoomed = false ∧ t.ts = tsN ∧ (∃ a, s.fetchDecode = .ok (.tend a)) ∧ t.mem = s.mem.writeCells s.tm.txData)

theorem Undisturbed.isolates {s u t : State} (h : Undisturbed s u) : isolates u t → isolates s t := by
  rintro (hmem | ⟨hd, hts, ⟨a, ha⟩, hmem⟩)
  · exact .inl (hmem.trans h.mem)
  · obtain ⟨hs, hdata⟩ := h.live hd
    exact .inr ⟨hs, hts, ⟨a, h.fetchDecode ▸ ha⟩, by rw [hmem, h.mem, hdata]⟩

/-- A commit attempt: failure handling, which stores nothing, or the commit of a transaction that was not doomed (R170, R203). -/
theorem State.tryCommit_storage {t : State} (h : s.tryCommit = .next t) : t.mem = s.mem ∨ commits s t := by
  unfold State.tryCommit at h
  dsimp only at h
  split at h
  · refine .inl (State.handleFailure_keepsStorage ?_ t h)
    exact State.recordPending_mem _
  · rename_i hd
    obtain ⟨hs, -⟩ := (Undisturbed.settle s (·.certain)).live (Bool.eq_false_iff.2 hd)
    cases h
    exact .inr ⟨hs, msrTs_putTs _ _, rfl⟩

theorem State.endNested_mem (s : State) : s.endNested.mem = s.mem := by
  unfold State.endNested
  dsimp only
  split <;> rfl

/-- tend. stores only by a commit (R203). -/
theorem execTend_storage {a : Bool} {t : State} (h : execTend a s = .next t) : t.mem = s.mem ∨ commits s t := by
  rcases State.guardTm_cases h with ⟨-, e⟩ | ⟨-, e⟩ | ⟨-, e⟩ | ⟨-, e⟩
  · unfold State.endTransactionLevel at e
    dsimp only at e
    split at e
    · cases e
      exact .inl rfl
    · split at e
      · split at e
        · exact State.tryCommit_storage (s := s.setCr0State) e.symm
        · cases e
          exact .inl (State.endNested_mem _)
      · cases e
        exact .inl rfl
  · cases e
    exact .inl rfl
  · cases e
    exact .inl rfl
  · cases e

/-- A trace, or the interrupt that comes in its place, keeps storage and Non-transactional state. -/
theorem traceAfter_next {traced : Bool} {r : Result} {t : State} (h : traceAfter traced r = .next t) :
    ∃ u, r = .next u ∧ t.mem = u.mem ∧ (u.ts = tsN → t.ts = tsN) := by
  rcases traceAfter_cases h with e | ⟨u, rfl, -, -, ⟨-, e⟩ | ⟨-, e⟩⟩
  · exact ⟨t, e.symm, rfl, id⟩
  · cases e
    refine ⟨u, rfl, rfl, fun hu => ?_⟩
    rw [State.fpBetween, State.fpAtNext, State.takeInterrupt_ts, hu]
    decide
  · cases e
    refine ⟨u, rfl, rfl, fun hu => ?_⟩
    rw [State.traceInterrupt, State.freeStatusInterrupt_ts, hu]
    decide

/-- An instruction of the table, with the trace after it. -/
theorem exec_isolates {i : Instr} {u t : State} {traced : Bool} (hi : s.fetchDecode = .ok i) (hu : Undisturbed s u)
    (h : traceAfter traced (exec i u) = .next t) : isolates s t := by
  by_cases htend : ∃ a, i = .tend a
  · obtain ⟨a, rfl⟩ := htend
    obtain ⟨v, hv, hmem, hts⟩ := traceAfter_next h
    refine hu.isolates ?_
    rcases execTend_storage hv with hkept | ⟨hd, hvN, hstored⟩
    · exact .inl (hmem.trans hkept)
    · exact .inr ⟨hd, hts hvN, ⟨a, hu.fetchDecode ▸ hi⟩, hmem.trans hstored⟩
  · exact .inl (traceAfter_keepsStorage traced (exec_keepsStorage (fun a e => htend ⟨a, e⟩) hu.mem) t h)

theorem State.afterStoppedFetch_mem (s : State) : s.afterStoppedFetch.mem = s.mem :=
  s.tick.tick.mayTouchPages_mem _ _

theorem State.runInstruction_isolates (hT : s.ts = tsT) {b : Boundary} {t : State} (h : s.runInstruction b = .next t) : isolates s t := by
  unfold State.runInstruction at h
  split at h
  · cases h
    exact .inl ((State.freeStatusInterrupt_mem _ _ _).trans s.afterStoppedFetch_mem)
  · exact .inl (State.failNotExecuted_keepsStorage s.afterStoppedFetch_mem _ t h)
  · exact .inl (State.handlePending_keepsStorage s.afterStoppedFetch_mem t h)
  · split at h
    · rename_i i hi
      exact exec_isolates hi (.fetched s b) h
    · split at h
      · rename_i base _
        have hu := Undisturbed.fetched s b
        refine .inl (traceAfter_keepsStorage _ ?_ t h)
        exact State.guardLevel_keepsStorage hu.mem _ (execBaseInstr_keepsStorage (hu.ts.trans hT) hu.mem _)
      · cases h
    all_goals cases h

theorem State.proceed_isolates (hT : s.ts = tsT) {b : Boundary} {t : State} (h : s.proceed b = .next t) : isolates s t := by
  rcases State.proceed_cases h with ⟨i, -, e⟩ | ⟨-, e⟩ | ⟨-, e⟩
  · cases e
    exact .inl (s.takeAsync_mem i)
  · exact .inl (State.handlePending_keepsStorage rfl t e.symm)
  · exact State.runInstruction_isolates hT e.symm

theorem State.powerSavingStep_mem (s : State) : s.powerSavingStep.mem = s.mem := by
  unfold State.powerSavingStep
  split
  · rfl
  · rename_i i _
    show (s.afterPowerSaving i).mem = s.mem
    unfold State.afterPowerSaving State.afterLevel
    repeat' split
    all_goals rfl

theorem State.atBoundary_isolates (hT : s.ts = tsT) {b : Boundary} {t : State} (h : s.atBoundary b = .next t) : isolates s t := by
  have hagent := Undisturbed.agent s b.agent
  rcases State.atBoundary_cases h with ⟨-, e⟩ | ⟨-, -, e⟩ | ⟨-, -, e⟩
  · cases e
    exact .inl s.powerSavingStep_mem
  · rcases State.fpBoundary_cases e.symm with e | ⟨-, e⟩
    · cases e
      exact .inl hagent.mem
    · exact (hagent.trans (.tick _)).isolates (State.proceed_isolates (s := (s.agent b.agent).tick) (hagent.ts.trans hT) e.symm)
  · exact hagent.isolates (State.proceed_isolates (hagent.ts.trans hT) e.symm)

/-- Settles O9: what happens before the instruction leaves the transaction's data and the instruction; of what the thread then does, only the
tend. that commits stores (`State.atBoundary_isolates`). -/
theorem transactionIsolation : Obligations.TransactionIsolation := by
  intro s t _ hT hext hstep
  have hother := (Undisturbed.popTape s).trans (.applyExternals _ hext)
  unfold step at hstep
  split at hstep
  · cases hstep
  · exact hother.isolates (State.atBoundary_isolates (hother.ts.trans hT) hstep)

end Sys2Proof.Machine
end

section
/-!
PROOFS. A Store in Transactional and in Suspended state, the transaction's own load after it, and a Store Conditional with only one of the pair in
Suspended state (20_memory.md rules R81, R82, R84, R90, R100, R101, R105; 40_tm_states_failure.md rule R166).
-/

namespace Sys2Proof.Machine

/-! ### A Store that nothing stops -/

/-- The thread when a Store that nothing stops has its bytes stored: the access is recorded and logged before (R105). -/
def State.storeDone (s : State) (ea : Word) (parts : List StorePart) : State :=
  ((s.tick.tick.recordAccess true (s.operandAddresses ea (storeSize parts))).logAccess true
    (s.operandAddresses ea (storeSize parts))).storeCells (s.storedCells ea parts)

/-- Storing bytes writes no register. -/
theorem State.storeCells_registers (s : State) (cells : List Host.Cell) :
    (s.storeCells cells).regs = s.regs ∧ (s.storeCells cells).cr = s.cr ∧ (s.storeCells cells).xer = s.xer := by
  unfold State.storeCells State.storeNow
  dsimp only
  split
  · exact ⟨rfl, rfl, rfl⟩
  · split
    · obtain ⟨tdoomed, pending, latent, draws, h, -⟩ := s.selfConflict_frame (cells.map (·.1))
      rw [h]
      exact ⟨rfl, rfl, rfl⟩
    · exact ⟨rfl, rfl, rfl⟩

theorem State.storeDone_registers (s : State) (ea : Word) (parts : List StorePart) :
    (s.storeDone ea parts).regs = s.regs ∧ (s.storeDone ea parts).cr = s.cr ∧ (s.storeDone ea parts).xer = s.xer := by
  obtain ⟨r, c, log, draws, -, -, hu⟩ := s.beforeAccess_frame true (s.operandAddresses ea (storeSize parts))
  unfold State.storeDone
  rw [hu]
  exact State.storeCells_registers _ _

/-- Register writes from the same registers leave the same registers. -/
theorem State.writeRegs_of_same {s t : State} (hregs : t.regs = s.regs) (hcr : t.cr = s.cr) (hxer : t.xer = s.xer)
    (ws : List RegWrite) :
    t.writeRegs ws = { t with regs := (s.writeRegs ws).regs, cr := (s.writeRegs ws).cr, xer := (s.writeRegs ws).xer } := by
  rw [← s.writeRegs_congr ws t, ← hregs, ← hcr, ← hxer]

/-- A Store that meets no exception and no disallowed type: its bytes stored, the registers it updates, the next address. -/
theorem execStore_of_clear {s : State} {ea : Word} {parts : List StorePart}
    (h : accessClear s true (s.operandAddresses ea (storeSize parts))) (updates : List RegWrite) :
    execBaseInstr (.store ea parts updates) s = .next { s.storeDone ea parts with
      regs := (s.writeRegs updates).regs, cr := (s.writeRegs updates).cr, xer := (s.writeRegs updates).xer
      nia := (s.storeDone ea parts).nia + 4, completed := true } := by
  obtain ⟨hregs, hcr, hxer⟩ := s.storeDone_registers ea parts
  have hexec : execBaseInstr (.store ea parts updates) s = .next ((s.storeDone ea parts).writeRegs updates).complete := by
    unfold accessClear at h
    rw [← s.storedCells_addresses] at h
    unfold execBaseInstr State.storeAt State.storeDone
    dsimp only
    rw [s.dataAccess_of_clear true _ _ _ h, s.storedCells_addresses]
  rw [hexec, State.writeRegs_of_same hregs hcr hxer]
  rfl

/-- A Store of a transaction (R82): the write set and the speculative storage updates, the pages, the log and the draws. -/
theorem State.storeDone_of_transactional {s : State} (hT : s.ts = tsT) (hheld : s.tm.updatesDiscarded = false) (ea : Word)
    (parts : List StorePart) :
    let addrs := s.operandAddresses ea (storeSize parts)
    ∃ pages log draws, s.storeDone ea parts = { s with
        tm := { s.tm with
          writeSet := s.tm.writeSet ++ addrs.map fun a => ⟨a, s.nia⟩
          txData := (s.storedCells ea parts).foldl (fun l c => cellPut l c.1 c.2) s.tm.txData }
        pages := pages, storageLog := log, draws := draws } ∧
      accessMarked true addrs s (s.storeDone ea parts) := by
  intro addrs
  obtain ⟨r, c, log, draws, hc, hr, hu⟩ := s.beforeAccess_frame true addrs
  have haddrs : (s.storedCells ea parts).map (fun c => (⟨c.1, s.nia⟩ : Foot)) = addrs.map fun a => ⟨a, s.nia⟩ := by
    rw [show addrs = _ from (s.storedCells_addresses ea parts).symm, List.map_map]
    rfl
  unfold State.storeDone
  rw [hu, State.storeCells_of_transactional (by exact hT), State.storeTransactional]
  dsimp only
  rw [hheld, haddrs]
  exact ⟨_, log, draws, rfl, r, c, hc, hr, rfl⟩

/-- Settles O55: the Store whole (`State.storeDone_of_transactional`), and the speculative byte of each address after it. -/
theorem storeTransactional : Obligations.StoreTransactional := by
  intro ea parts updates s hT hsize hclear hheld
  obtain ⟨pages, log, draws, hdone, hmarked⟩ := State.storeDone_of_transactional hT hheld ea parts
  have hexec := execStore_of_clear hclear updates
  have hnodup : ((s.storedCells ea parts).map (·.1)).Nodup := by
    rw [s.storedCells_addresses]
    exact s.operandAddresses_nodup ea _ hsize
  rw [hdone] at hexec hmarked
  refine ⟨_, hexec, cellAt_foldl_of_nodup _ _ hnodup, fun a ha => ?_, rfl, hmarked, rfl⟩
  rw [← s.storedCells_addresses] at ha
  exact (cellAt_foldl_cellPut _ _ a).1 ha

/-! ### A Store in Suspended state -/

/-- A store to a location the transaction loaded makes it fail (R166). -/
theorem State.selfConflict_failing {s : State} (h : s.active = true) {addrs : List Nat} {f : Foot} (hf : f ∈ s.tm.readSet)
    (ha : f.addr ∈ addrs) : (s.selfConflict addrs).tm.failing := by
  have hread : (s.tm.readSet.any fun f => addrs.contains f.addr) = true :=
    List.any_eq_true.2 ⟨f, hf, List.contains_iff_mem.2 ha⟩
  unfold State.selfConflict
  dsimp only
  rw [if_pos hread]
  exact State.willFail_failing h _ _

/-- A store that shares no block with an access of the transaction is no cause of failure (R84, R166). -/
theorem State.selfConflict_of_untouched {s : State} {addrs : List Nat}
    (h : touches (s.tm.footprint ++ s.tm.speculated) addrs = false) : s.selfConflict addrs = s := by
  have hread : ¬ (s.tm.readSet.any fun f => addrs.contains f.addr) = true := fun hr => by
    obtain ⟨f, hf, ha⟩ := List.any_eq_true.1 hr
    have hfoot : f ∈ s.tm.footprint ++ s.tm.speculated := List.mem_append_left _ (List.mem_append_left _ hf)
    exact Bool.false_ne_true (h.symm.trans (touches_of_mem hfoot (List.contains_iff_mem.1 ha) rfl))
  unfold State.selfConflict
  dsimp only
  rw [if_neg hread, if_neg (by rw [h]; exact Bool.false_ne_true)]

/-- A Store in Suspended state (R84, R90, R166): storage, the superseded updates, the causes of failure, the pages, the log and the draws. -/
theorem State.storeDone_of_suspended {s : State} (hS : s.ts = tsS) (ea : Word) (parts : List StorePart) :
    let addrs := s.operandAddresses ea (storeSize parts)
    ∃ tdoomed pending latent pages log draws, s.storeDone ea parts = { s with
        tm := { s.tm with
          tdoomed := tdoomed, pending := pending, latent := latent
          txData := (s.supersede addrs).tm.txData }
        mem := s.mem.writeCells (s.storedCells ea parts), pages := pages, storageLog := log, draws := draws } ∧
      accessMarked true addrs s (s.storeDone ea parts) ∧ (s.tm.tdoomed = true → tdoomed = true) ∧
      ((∃ f, f ∈ s.tm.readSet ∧ f.addr ∈ addrs) → (s.storeDone ea parts).tm.failing) ∧
      (touches (s.tm.footprint ++ s.tm.speculated) addrs = false →
        tdoomed = s.tm.tdoomed ∧ pending = s.tm.pending ∧ latent = s.tm.latent) := by
  intro addrs
  obtain ⟨r, c, log, draws, hc, hr, hu⟩ := s.beforeAccess_frame true addrs
  have haddrs : (s.storedCells ea parts).map (·.1) = addrs := s.storedCells_addresses ea parts
  unfold State.storeDone
  rw [hu, State.storeCells_of_suspended (by exact hS), haddrs]
  generalize hv : ({ s with storageLog := log, draws := draws, pages := marked addrs r c s.pages } : State) = v
  have hactive : v.active = true := by rw [← hv]; simp [State.active, State.ts_eq (s := s), hS]
  have htm : v.tm = s.tm := by rw [← hv]
  have hfail : (∃ f, f ∈ s.tm.readSet ∧ f.addr ∈ addrs) → (v.selfConflict addrs).tm.failing := fun ⟨f, hf, ha⟩ =>
    State.selfConflict_failing hactive (htm ▸ hf) ha
  have hsame : touches (s.tm.footprint ++ s.tm.speculated) addrs = false → v.selfConflict addrs = v := fun h =>
    State.selfConflict_of_untouched (htm ▸ h)
  obtain ⟨tdoomed, pending, latent, draws', hw, hdoomed⟩ := v.selfConflict_frame addrs
  rw [hw] at hfail hsame ⊢
  subst hv
  refine ⟨tdoomed, pending, latent, _, log, draws', rfl, ⟨r, c, hc, hr, rfl⟩, hdoomed, hfail, fun h => ?_⟩
  have htm := congrArg State.tm (hsame h)
  exact ⟨congrArg Facility.tdoomed htm, congrArg Facility.pending htm, congrArg Facility.latent htm⟩

/-- Settles O58: the Store whole (`State.storeDone_of_suspended`), and the speculative byte of each address after it. -/
theorem storeSuspended : Obligations.StoreSuspended := by
  intro ea parts updates s hS hclear
  obtain ⟨tdoomed, pending, latent, pages, log, draws, hdone, hmarked, hdoomed, hfail, hsame⟩ :=
    State.storeDone_of_suspended hS ea parts
  have hexec := execStore_of_clear hclear updates
  rw [hdone] at hexec hmarked hfail
  refine ⟨_, hexec, fun a ha => ?_, rfl, hfail, rfl, hdoomed, fun a ha => s.supersede_cellAt_of_mem ha,
    fun a ha => s.supersede_cellAt_of_not_mem ha, fun h => ?_, hmarked, rfl⟩
  · refine s.mem.read_writeCells_of_not_mem _ a fun c hc e => ha ?_
    rw [← e, ← s.storedCells_addresses]
    exact List.mem_map_of_mem hc
  · obtain ⟨rfl, rfl, rfl⟩ := hsame h
    rfl

/-! ### A load after a store of the same transaction -/

/-- Reference and Change bits change nothing of what an access of the pages meets. -/
theorem accessClear_of_marked {s t : State} {st : Bool} {addrs marks : List Nat} {r c : Bool} (h : accessClear s st addrs)
    (hpages : t.pages = marked marks r c s.pages) (hts : t.ts = s.ts) : accessClear t st addrs := by
  intro a ha p hp
  unfold State.pageAt at hp
  rw [hpages, find_marked, Option.map_eq_some_iff] at hp
  obtain ⟨q, hq, rfl⟩ := hp
  obtain ⟨hnone, hallowed⟩ := h a ha q hq
  refine ⟨?_, fun hT => hallowed (hts ▸ hT)⟩
  cases st <;> exact hnone

/-- The bytes a Store of one General Purpose Register writes make the number of its low-order part (R82). -/
theorem numberOf_storePart_gpr (s : State) (rs : RegNum) (n : Nat) :
    numberOf (storageOrder s.byteOrder (StorePart.data s ⟨.gpr rs, n, false, none⟩)) = (s.gpr rs).toNat % 2 ^ (8 * n) := by
  unfold StorePart.data State.dataOrder
  dsimp only
  rw [if_neg Bool.false_ne_true, storageOrder_storageOrder, numberOf_splitBytes, State.readData,
    BitVec.toNat_setWidth_of_le (by decide)]

/-- A list of cells read back address by address gives its bytes. -/
theorem map_eq_of_zip {addrs : List Nat} {bytes : List Byte} (hlen : bytes.length = addrs.length) {read : Nat → Byte}
    (h : ∀ c, c ∈ addrs.zip bytes → read c.1 = c.2) : addrs.map read = bytes := by
  calc addrs.map read
    _ = (addrs.zip bytes).map (fun c => read c.1) := by
      rw [← Function.comp_def read Prod.fst, ← List.map_map, List.map_fst_zip (by omega)]
    _ = (addrs.zip bytes).map (·.2) := List.map_congr_left h
    _ = bytes := List.map_snd_zip (by omega)

theorem AccessSize.bytes_le (size : AccessSize) : size.bytes ≤ 8 := by cases size <;> decide

/-- Settles O56: after the Store (`storeTransactional`) each byte of the operand is the transaction's own, and the Load (`loadTransactional`) reads
these. -/
theorem loadSeesOwnStore : Obligations.LoadSeesOwnStore := by
  intro rs rt ea size s t u hT hlive hheld hstore hload hlatent hst hld
  have hsize := size.bytes_le
  have hwhole : storeSize [⟨.gpr rs, size.bytes, false, none⟩] = size.bytes := by simp [storeSize]
  obtain ⟨t', hexec, hcells, -, htm, ⟨r, c, -, -, hpages⟩, ht⟩ := storeTransactional ea [⟨.gpr rs, size.bytes, false, none⟩] [] s hT
    (by rw [hwhole]; omega) (by rw [hwhole]; exact hstore) hheld
  obtain rfl : t' = t := Host.Outcome.next.inj (hexec.symm.trans hst)
  have hmsr : t'.msr = s.msr := by rw [ht]
  have hparams : t'.params = s.params := by rw [ht]
  have haddrs : t'.operandAddresses ea size.bytes = s.operandAddresses ea size.bytes := by
    simp only [State.operandAddresses, State.effective, hmsr]
  have horder : t'.byteOrder = s.byteOrder := by simp only [State.byteOrder, hmsr, hparams]
  have hts : t'.ts = s.ts := State.ts_eq hmsr
  obtain ⟨u', bytes, hexec', -, -, hbytes, -, -, -, -, -, -, -, -, -, hreg⟩ := loadTransactional ea size.bytes
    [⟨.gpr rt, 0, size.bytes, false, .zero⟩] [] t' (hts.trans hT) (haddrs ▸ accessClear_of_marked hload hpages hts)
  obtain rfl : u' = u := Host.Outcome.next.inj (hexec'.symm.trans hld)
  obtain ⟨-, -, hvalue⟩ := hreg rt hsize rfl
  have hdoomed : t'.tm.tdoomed = false := by rw [htm]; exact hlive
  have hkept : t'.tm.updatesDiscarded = false := by rw [htm]; exact hheld
  have hown : bytes = StorePart.data s ⟨.gpr rs, size.bytes, false, none⟩ := by
    rw [hbytes hdoomed hkept (by rw [htm]; exact hlatent), haddrs]
    refine map_eq_of_zip (by simp [StorePart.data, storageOrder_length, splitBytes, State.operandAddresses]) fun c hc => ?_
    have hcell := hcells c (by simpa [State.storedCells, hwhole] using hc)
    rw [seenByte, hcell, Option.getD_some]
  rw [hvalue, hown, horder, numberOf_storePart_gpr]

/-! ### A Store Conditional with only one of the pair in Suspended state -/

/-- Only one of the pair in Suspended state: the reservation does not let a Store Conditional store (R100 item 4 c, R101). -/
theorem State.reservationAllows_of_mixed {s : State} {res : Reservation} (hres : s.reservation = some res)
    (h : s.ts = tsS ∧ res.state ≠ tsS ∨ s.ts ≠ tsS ∧ res.state = tsS) (ea : Word) (size : AccessSize) :
    s.reservationAllows ea size = false := by
  have hstates : ((s.ts == tsS) == (res.state == tsS)) = false := by
    rcases h with ⟨hs, hr⟩ | ⟨hs, hr⟩ <;> simp [hs, hr]
  unfold State.reservationAllows
  rw [hres]
  dsimp only
  rw [hstates, Bool.and_false]

/-- CR0 bit 2 after a Store Conditional says whether it stored (log 40). -/
theorem State.setCr0Stored_bit (s : State) (stored : Bool) : bit (crField (s.setCr0Stored stored).cr 0) 2 = stored := by
  rw [State.setCr0Stored, State.setCr0_cr, crField_putCrField]
  cases stored <;> cases xerSo s.xer <;> decide

/-- Settles O59: the Store Conditional that does not store. -/
theorem storeConditionalSuspended : Obligations.StoreConditionalSuspended := by
  intro rs ea size s res hres hmixed
  obtain ⟨r, c, draws, hc, hpages⟩ := s.mayTouchPages_frame (s.operandAddresses ea size.bytes) true
  have hexec : execBaseInstr (.storeConditional rs ea size) s = .next { (s.mayTouchPages (s.operandAddresses ea size.bytes) true).setCr0Stored
      false with reservation := none }.complete := by
    rw [execBaseInstr, State.storeConditional, if_neg (by rw [State.reservationAllows_of_mixed hres hmixed]; exact Bool.false_ne_true)]
  rw [hpages] at hexec
  exact ⟨_, hexec, State.setCr0Stored_bit _ false, ⟨r, c, fun h => (hc h).1, rfl⟩, rfl⟩

end Sys2Proof.Machine
end

section
/-!
PROOFS. What other processors do to an active transaction (20_memory.md rules R76, R77; 40_tm_states_failure.md rule R161).
-/

namespace Sys2Proof.Machine

/-- The transaction states of R10 but Non-transactional have an active transaction. -/
theorem State.active_of_ts {s : State} (hN : s.ts ≠ tsN) (hlegal : s.ts ≠ 0b11) : s.active = true := by
  unfold State.active
  generalize s.ts = ts at *
  revert ts
  decide

/-- An access of another processor that touches the footprint makes the transaction fail, unless the other transaction alone fails (R76,
R161). -/
theorem State.externalConflict_failing {s : State} (h : s.active = true) {who : OtherAgent} (hwho : who ≠ .transaction .theirs)
    (stored : Bool) {addrs : List Nat} {foot : List Foot} (htouched : touches foot addrs = true) (spec : List Foot) :
    (s.externalConflict who stored addrs foot spec).tm.failing := by
  unfold State.externalConflict
  dsimp only
  split
  · rename_i hnone
    rcases who with _ | (_ | _ | _)
    · cases hnone
    · cases hnone
    · exact absurd rfl hwho
    · cases hnone
  · rw [if_pos htouched]
    exact State.willFail_failing (s := s.tick) h _ _

/-- An access of another processor changes no storage by itself. -/
theorem State.externalConflict_mem (s : State) (who : OtherAgent) (stored : Bool) (addrs : List Nat) (foot spec : List Foot) :
    (s.externalConflict who stored addrs foot spec).mem = s.mem := by
  rcases s.externalConflict_cases who stored addrs foot spec with h | ⟨l, h⟩ <;> rw [h]
  exact s.tick.arise_mem l

/-- Another processor's store that touches the footprint: which of the two fails decides whether it is performed (R76). -/
theorem State.applyExternal_store {s : State} (h : s.active = true) {who : OtherAgent} {a : Word} {bytes : List Byte}
    (htouched : touches s.tm.footprint (addressesFrom a bytes.length) = true) :
    let t := s.applyExternal (.store who a bytes)
    (who ≠ .transaction .theirs → t.tm.failing) ∧
      (who = .nonTransactional ∨ who = .transaction .ours →
        t.mem = s.mem.writeCells ((addressesFrom a bytes.length).zip bytes)) ∧
      (who = .transaction .both → t.mem = s.mem) ∧ (who = .transaction .theirs → t = s) := by
  have hfail := fun hwho => State.externalConflict_failing h (who := who) hwho
    (storePerformed who (touches s.tm.footprint (addressesFrom a bytes.length))) htouched s.tm.speculated
  have hmem := s.externalConflict_mem who (storePerformed who (touches s.tm.footprint (addressesFrom a bytes.length)))
    (addressesFrom a bytes.length) s.tm.footprint s.tm.speculated
  dsimp only [State.applyExternal]
  rw [htouched] at *
  rcases who with _ | (_ | _ | _)
  · exact ⟨hfail, fun _ => congrArg (Memory.writeCells · ((addressesFrom a bytes.length).zip bytes)) hmem, nofun, nofun⟩
  · exact ⟨hfail, fun _ => congrArg (Memory.writeCells · ((addressesFrom a bytes.length).zip bytes)) hmem, nofun, nofun⟩
  · exact ⟨fun hwho => absurd rfl hwho, nofun, nofun, fun _ => rfl⟩
  · exact ⟨hfail, nofun, fun _ => hmem, nofun⟩

/-- A tlbie for a range that holds a byte of the footprint makes the transaction fail (R77). -/
theorem State.translationInvalidated_failing {s : State} (h : s.active = true) {f : Foot} (hf : f ∈ s.tm.footprint) {base size : Nat}
    (hbase : base ≤ f.addr) (hsize : f.addr < base + size) : (s.translationInvalidated base size).tm.failing := by
  have huses : s.tm.usesPage base size = true := List.any_eq_true.2 ⟨f, hf, by simp [hbase, hsize]⟩
  unfold State.translationInvalidated
  rw [if_pos huses]
  exact State.willFail_failing h _ _

/-- Settles O60: the store, the load and the tlbie, each against a byte it meets. -/
theorem externalConflicts : Obligations.ExternalConflicts := by
  intro s f hN hlegal
  have hactive := State.active_of_ts hN hlegal
  refine ⟨fun hf who a bytes ⟨x, hx, hblock⟩ => ?_, fun hf who a n ⟨x, hx, hblock⟩ => ⟨fun hwho => ?_, ?_⟩,
    fun hf base size => State.translationInvalidated_failing hactive hf⟩
  · exact State.applyExternal_store hactive (touches_of_mem hf hx hblock)
  · exact State.externalConflict_failing hactive hwho false (touches_of_mem hf hx hblock) _
  · exact s.externalConflict_mem _ _ _ _ _

end Sys2Proof.Machine
end

section
/-!
PROOFS. The encoding: the row a word selects, the operands read back from an encoding, and the operands placed back into a word
(30_encoding.md rules R123 to R132).
-/

namespace Sys2Proof

open Sys2Proof.Machine

/-! ### The row a word selects -/

/-- Only the opcode bits of a word select its row (R129). -/
theorem findOpcode_and_opcodeMask (w : Word32) : findOpcode (w &&& opcodeMask) = findOpcode w := by
  simp only [findOpcode, BitVec.and_assoc, BitVec.and_self]

/-- The opcode bits of a masked word. -/
theorem and_and_opcodeMask (w m : Word32) : w &&& m &&& opcodeMask = w &&& opcodeMask &&& m := by ac_rfl

/-- The row found is one whose `match` the word has (R129). -/
theorem opcodeBits_of_findOpcode {w : Word32} {o : Opcode} (h : findOpcode w = some o) : w &&& opcodeMask = o.matchBits := by
  have hfound := List.find?_some h
  exact eq_of_beq hfound

/-- What a word that decodes is: it has a row's opcode bits, zeros in the row's reserved bits, and the operands are read from it. -/
theorem decodeWord_eq_ok {w : Word32} {i : Instr} (h : decodeWord w = .ok i) :
    ∃ o : Opcode, w &&& opcodeMask = o.matchBits ∧ w &&& o.reservedBits = 0 ∧ i = o.operands w := by
  unfold decodeWord at h
  split at h
  · split at h
    · cases h
    · split at h <;> cases h
  next o ho =>
    split at h
    next hreserved => exact ⟨o, opcodeBits_of_findOpcode ho, hreserved, (Except.ok.inj h).symm⟩
    · cases h

/-- A word that selects no row, but would with bit 31 zero, has a reserved bit set (R132). -/
theorem decodeWord_of_hasReservedBit31 {w : Word32} (hnone : findOpcode w = none) (h : hasReservedBit31 w = true) :
    decodeWord w = .error .reservedField := by
  simp [decodeWord, hnone, h]

/-- A word that selects no row, with bit 31 zero neither, but would with bit 31 one, is not defined (R132). -/
theorem decodeWord_of_lacksBit31 {w : Word32} (hnone : findOpcode w = none) (hclear : hasReservedBit31 w = false)
    (h : lacksBit31 w = true) : decodeWord w = .error .undefinedEncoding := by
  simp [decodeWord, hnone, hclear, h]

/-! ### Operands read from an encoding -/

/-- No operand reaches into the opcode bits of an encoding (R127). -/
theorem encode_and_opcodeMask (i : Instr) : encode i &&& opcodeMask = i.opcode.matchBits := by
  cases i with
  | tbegin a r => exact Laws.EncodeFixed.tbegin a r
  | tend a => exact Laws.EncodeFixed.tend a
  | tabort ra => exact Laws.EncodeFixed.tabort ra
  | tabortwc cond ra rb => exact Laws.EncodeFixed.tabortwc cond ra rb
  | tabortwci cond ra si => exact Laws.EncodeFixed.tabortwci cond ra si
  | tabortdc cond ra rb => exact Laws.EncodeFixed.tabortdc cond ra rb
  | tabortdci cond ra si => exact Laws.EncodeFixed.tabortdci cond ra si
  | tsr l => exact Laws.EncodeFixed.tsr l
  | tcheck bf => exact Laws.EncodeFixed.tcheck bf
  | treclaim ra => exact Laws.EncodeFixed.treclaim ra
  | trechkpt => exact Laws.EncodeFixed.trechkpt
  | mfspr rt spr => exact Laws.EncodeFixed.mfspr rt spr
  | mtspr spr rs => exact Laws.EncodeFixed.mtspr spr rs
  | mtmsrd rs l => exact Laws.EncodeFixed.mtmsrd rs l
  | rfid => exact Laws.EncodeFixed.rfid
  | hrfid => exact Laws.EncodeFixed.hrfid
  | doze => exact Laws.EncodeFixed.doze
  | nap => exact Laws.EncodeFixed.nap
  | sleep => exact Laws.EncodeFixed.sleep
  | rvwinkle => exact Laws.EncodeFixed.rvwinkle

/-- No operand reaches into the reserved bits of an encoding (R125). -/
theorem encode_and_reservedBits (i : Instr) : encode i &&& i.opcode.reservedBits = 0 := by
  cases i with
  | tbegin a r => exact Laws.EncodeReserved.tbegin a r
  | tend a => exact Laws.EncodeReserved.tend a
  | tabort ra => exact Laws.EncodeReserved.tabort ra
  | tabortwc cond ra rb => exact Laws.EncodeReserved.tabortwc cond ra rb
  | tabortwci cond ra si => exact Laws.EncodeReserved.tabortwci cond ra si
  | tabortdc cond ra rb => exact Laws.EncodeReserved.tabortdc cond ra rb
  | tabortdci cond ra si => exact Laws.EncodeReserved.tabortdci cond ra si
  | tsr l => exact Laws.EncodeReserved.tsr l
  | tcheck bf => exact Laws.EncodeReserved.tcheck bf
  | treclaim ra => exact Laws.EncodeReserved.treclaim ra
  | trechkpt => exact Laws.EncodeReserved.trechkpt
  | mfspr rt spr => exact Laws.EncodeReserved.mfspr rt spr
  | mtspr spr rs => exact Laws.EncodeReserved.mtspr spr rs
  | mtmsrd rs l => exact Laws.EncodeReserved.mtmsrd rs l
  | rfid => exact Laws.EncodeReserved.rfid
  | hrfid => exact Laws.EncodeReserved.hrfid
  | doze => exact Laws.EncodeReserved.doze
  | nap => exact Laws.EncodeReserved.nap
  | sleep => exact Laws.EncodeReserved.sleep
  | rvwinkle => exact Laws.EncodeReserved.rvwinkle

/-- Outside its opcode bits a row's `match` is zero, so an encoding holds there what the operands put there. -/
theorem extract_encode (i : Instr) (a m : Nat) (ha : 11 ≤ a) (hm : a + m ≤ 26) :
    (encode i).extractLsb' a m = i.operandBits.extractLsb' a m := by
  have hzero : i.opcode.matchBits.extractLsb' a m = 0 := by
    apply BitVec.eq_of_getLsbD_eq
    intro k hk
    have hmask : opcodeMask.getLsbD (a + k) = false :=
      (by decide : ∀ j : Fin 26, 11 ≤ j.val → opcodeMask.getLsbD j.val = false) ⟨a + k, by omega⟩ (by simp; omega)
    rw [BitVec.getLsbD_extractLsb', ← encode_and_opcodeMask, BitVec.getLsbD_and, hmask]
    simp
  rw [encode, extract_or, hzero]
  exact BitVec.zero_or

/-- An operand bit is a field one bit wide. -/
theorem getMsbD_eq_extract (w : Word32) (k : Nat) (hk : k < 32) : w.getMsbD k = (w.extractLsb' (31 - k) 1).getLsbD 0 := by
  simp [BitVec.getMsbD_eq_getLsbD, hk]

/-- SI is read back: a number from -16 to 15 is the value of its five bits (R124). -/
theorem toInt_ofInt_of_siFits {si : Int} (h : siFits si = true) : (BitVec.ofInt 5 si).toInt = si := by
  simp only [siFits, Bool.and_eq_true, decide_eq_true_eq] at h
  exact BitVec.toInt_ofInt_eq_self (by decide) h.1 (by omega)

/-- A special purpose register number is its two halves (R128). -/
theorem sprHalves_of_sprFits {n : Nat} (h : sprFits n = true) :
    (BitVec.ofNat 5 (n / 32)).toNat * 32 + (BitVec.ofNat 5 n).toNat = n := by
  simp only [sprFits, decide_eq_true_eq] at h
  simp only [BitVec.toNat_ofNat]
  omega

/-- The operands of a row are read outside the opcode bits. -/
theorem operands_congr {w v : Word32} (h : ∀ a m, 11 ≤ a → a + m ≤ 26 → w.extractLsb' a m = v.extractLsb' a m) (o : Opcode) :
    o.operands w = o.operands v := by
  have h6 : field6 w = field6 v := h 21 5 (by decide) (by decide)
  have h11 : field11 w = field11 v := h 16 5 (by decide) (by decide)
  have h16 : field16 w = field16 v := h 11 5 (by decide) (by decide)
  have hbf : fieldBf w = fieldBf v := h 23 3 (by decide) (by decide)
  have hbit (k : Nat) (hlow : 6 ≤ k) (hhigh : k ≤ 20) : w.getMsbD k = v.getMsbD k := by
    rw [getMsbD_eq_extract w k (by omega), getMsbD_eq_extract v k (by omega), h (31 - k) 1 (by omega) (by omega)]
  have hbit6 : bit6 w = bit6 v := hbit 6 (by decide) (by decide)
  have hbit10 : bit10 w = bit10 v := hbit 10 (by decide) (by decide)
  have hbit15 : bit15 w = bit15 v := hbit 15 (by decide) (by decide)
  cases o <;> simp only [Opcode.operands, fieldSi, fieldSpr, h6, h11, h16, hbf, hbit6, hbit10, hbit15]

/-- Three fields side by side are each read back. -/
theorem fields_of_three (x y z : BitVec 5) :
    let w := placeField x 21 ||| placeField y 16 ||| placeField z 11
    field6 w = x ∧ field11 w = y ∧ field16 w = z := by
  simp [field6, field11, field16, extract_or, extract_placeField, extract_placeField_of_disjoint]

/-- The operands of a well-formed instruction are read back from their places: no two of them meet (R123, R124, R128). -/
theorem operands_operandBits (i : Instr) (h : i.wellFormed = true) : i.opcode.operands i.operandBits = i := by
  cases i with
  | tbegin a r => cases a <;> cases r <;> rfl
  | tend flag | tsr flag => cases flag <;> rfl
  | tabort ra | treclaim ra => exact congrArg _ (extract_placeField ra 16 (by decide))
  | tcheck bf => exact congrArg _ (extract_placeField bf 23 (by decide))
  | tabortwc cond ra rb | tabortdc cond ra rb =>
    obtain ⟨hcond, hra, hrb⟩ := fields_of_three cond ra rb
    simp only [Instr.opcode, Opcode.operands, Instr.operandBits, hcond, hra, hrb]
  | tabortwci cond ra si | tabortdci cond ra si =>
    obtain ⟨hcond, hra, hsi⟩ := fields_of_three cond ra (BitVec.ofInt 5 si)
    simp only [Instr.opcode, Opcode.operands, Instr.operandBits, fieldSi, hcond, hra, hsi, toInt_ofInt_of_siFits h]
  | mfspr reg spr | mtspr spr reg =>
    obtain ⟨hreg, hlow, hhigh⟩ := fields_of_three reg (BitVec.ofNat 5 spr) (BitVec.ofNat 5 (spr / 32))
    simp only [Instr.opcode, Opcode.operands, Instr.operandBits, placeSpr, ← BitVec.or_assoc, fieldSpr, hreg, hlow, hhigh,
      sprHalves_of_sprFits h]
  | mtmsrd rs l =>
    simp [Instr.opcode, Opcode.operands, Instr.operandBits, field6, bit15, getMsbD_eq_extract, extract_or, extract_placeField,
      extract_placeField_of_disjoint]
  | trechkpt | rfid | hrfid | doze | nap | sleep | rvwinkle => rfl

/-- The operands read from the encoding of a well-formed instruction are its own. -/
theorem operands_encode (i : Instr) (h : i.wellFormed = true) : i.opcode.operands (encode i) = i :=
  (operands_congr (extract_encode i) i.opcode).trans (operands_operandBits i h)

/-- Settles O1: the encoding selects its row, has no reserved bit set, and holds the operands. -/
theorem decodeEncode : Obligations.DecodeEncode := fun i hi =>
  (decodeWord_of_match _ _ (encode_and_opcodeMask i) (encode_and_reservedBits i)).trans (congrArg _ (operands_encode i hi))

/-! ### Operands placed back into a word -/

/-- A field taken from a word and placed back is the word under the field's mask. -/
theorem placeField_extract (w : Word32) (sh n : Nat) :
    placeField (w.extractLsb' sh n) sh = w &&& placeField (BitVec.allOnes n) sh := by
  apply BitVec.eq_of_getLsbD_eq
  intro k hk
  rw [BitVec.getLsbD_and, placeField_getLsbD _ _ _ hk, placeField_getLsbD _ _ _ hk, BitVec.getLsbD_extractLsb', BitVec.getLsbD_allOnes]
  by_cases h : sh ≤ k
  · rw [Nat.add_sub_cancel' h]
    simp [h, Bool.and_comm]
  · simp [h]

/-- An operand bit placed back is the word under its mask. -/
theorem placeField_getMsbD (w : Word32) (k : Nat) (hk : k < 32) :
    placeField (BitVec.ofBool (w.getMsbD k)) (31 - k) = w &&& placeField (BitVec.allOnes 1) (31 - k) := by
  rw [← placeField_extract, getMsbD_eq_extract w k hk]
  congr 1
  exact BitVec.eq_of_getLsbD_eq fun j hj => by simp [Nat.lt_one_iff.1 hj]

/-- The spr field, placed back with its halves exchanged again (R128). -/
theorem placeSpr_fieldSpr (w : Word32) : placeSpr (fieldSpr w) = placeField (field11 w) 16 ||| placeField (field16 w) 11 := by
  have hlow : BitVec.ofNat 5 (fieldSpr w) = field11 w := BitVec.eq_of_toNat_eq (by
    have := (field11 w).isLt
    rw [BitVec.toNat_ofNat, fieldSpr]
    omega)
  have hhigh : BitVec.ofNat 5 (fieldSpr w / 32) = field16 w := BitVec.eq_of_toNat_eq (by
    have := (field11 w).isLt
    have := (field16 w).isLt
    rw [BitVec.toNat_ofNat, fieldSpr]
    omega)
  rw [placeSpr, hlow, hhigh]

/-- The bits of a word that a row gives to its operands: neither opcode bits nor reserved (R125). -/
def Opcode.operandMask (o : Opcode) : Word32 := ~~~(opcodeMask ||| o.reservedBits)

/-- Each bit of a word is an opcode bit, an operand bit or a reserved bit (R125). -/
theorem Opcode.masks_cover (o : Opcode) : opcodeMask ||| o.operandMask ||| o.reservedBits = BitVec.allOnes 32 := by
  cases o <;> decide

/-- The operands read from a word, placed again, are the word's operand bits. -/
theorem operandBits_operands (w : Word32) (o : Opcode) : (o.operands w).operandBits = w &&& o.operandMask := by
  have h6 : placeField (field6 w) 21 = w &&& 0x03E00000 := placeField_extract w 21 5
  have h11 : placeField (field11 w) 16 = w &&& 0x001F0000 := placeField_extract w 16 5
  have h16 : placeField (field16 w) 11 = w &&& 0x0000F800 := placeField_extract w 11 5
  have hsi : BitVec.ofInt 5 (fieldSi w) = field16 w := BitVec.ofInt_toInt
  have hbf : placeField (fieldBf w) 23 = w &&& 0x03800000 := placeField_extract w 23 3
  have hbit6 : placeField (BitVec.ofBool (bit6 w)) 25 = w &&& 0x02000000 := placeField_getMsbD w 6 (by decide)
  have hbit10 : placeField (BitVec.ofBool (bit10 w)) 21 = w &&& 0x00200000 := placeField_getMsbD w 10 (by decide)
  have hbit15 : placeField (BitVec.ofBool (bit15 w)) 16 = w &&& 0x00010000 := placeField_getMsbD w 15 (by decide)
  cases o with
  | trechkpt | rfid | hrfid | doze | nap | sleep | rvwinkle => exact BitVec.and_zero.symm
  | _ =>
    simp only [Opcode.operands, Instr.operandBits, placeSpr_fieldSpr, h6, h11, h16, hsi, hbf, hbit6, hbit10, hbit15,
      ← BitVec.and_or_distrib_left]
    exact congrArg (w &&& ·) (by decide)

/-- The instruction of a row belongs to the row. -/
theorem opcode_operands (w : Word32) (o : Opcode) : (o.operands w).opcode = o := by cases o <;> rfl

/-- Operands read from a word fit their fields (R124, R128). -/
theorem wellFormed_operands (w : Word32) (o : Opcode) : (o.operands w).wellFormed = true := by
  have hsi : siFits (fieldSi w) = true := by
    have hhigh : fieldSi w < 16 := BitVec.toInt_lt
    exact Bool.and_eq_true_iff.2 ⟨decide_eq_true (BitVec.le_toInt (field16 w)), decide_eq_true (by omega)⟩
  have hspr : fieldSpr w < 1024 := by
    have hlow := (field11 w).isLt
    have hhigh := (field16 w).isLt
    unfold fieldSpr
    omega
  cases o with
  | tabortwci | tabortdci => exact hsi
  | mfspr | mtspr => exact decide_eq_true hspr
  | _ => rfl

/-- A word with a row's opcode bits and no reserved bit set is the encoding of the row's instruction with the word's operands. -/
theorem encode_operands {w : Word32} {o : Opcode} (h : w &&& opcodeMask = o.matchBits) (hr : w &&& o.reservedBits = 0) :
    encode (o.operands w) = w :=
  calc encode (o.operands w)
    _ = (w &&& opcodeMask) ||| (w &&& o.operandMask) := by rw [encode, opcode_operands, operandBits_operands, h]
    _ = (w &&& opcodeMask) ||| (w &&& o.operandMask) ||| (w &&& o.reservedBits) := by rw [hr]; exact BitVec.or_zero.symm
    _ = w &&& BitVec.allOnes 32 := by rw [← BitVec.and_or_distrib_left, ← BitVec.and_or_distrib_left, o.masks_cover]
    _ = w := BitVec.and_allOnes

/-- Settles O2: the word has a row's opcode bits and no reserved bit of it, and its other bits are the operands. -/
theorem encodeDecode : Obligations.EncodeDecode := by
  intro w i h
  obtain ⟨o, hopcode, hreserved, rfl⟩ := decodeWord_eq_ok h
  exact ⟨wellFormed_operands w o, encode_operands hopcode hreserved⟩

/-! ### Words written out, and words refused -/

/-- A word computed as R134 does, by OR-ing the operands into `match`, decodes. -/
theorem decodeWord_of_encode {w : Word32} {i : Instr} (hi : i.wellFormed = true) (h : encode i = w) : decodeWord w = .ok i :=
  h ▸ decodeEncode i hi

/-- Settles O3: each word is the encoding of its instruction (R134). -/
theorem decodeSpecWords : Obligations.DecodeSpecWords :=
  ⟨decodeWord_of_encode rfl (by decide), decodeWord_of_encode rfl (by decide), decodeWord_of_encode rfl (by decide),
    decodeWord_of_encode rfl (by decide), decodeWord_of_encode rfl (by decide), decodeWord_of_encode rfl (by decide),
    decodeWord_of_encode rfl (by decide), decodeWord_of_encode rfl (by decide), decodeWord_of_encode rfl (by decide),
    decodeWord_of_encode rfl (by decide)⟩

/-- A row's word with a reserved bit set is refused (R125, D5). -/
theorem decodeWord_of_reservedBits {w : Word32} {o : Opcode} (h : w &&& opcodeMask = o.matchBits) (hr : w &&& o.reservedBits ≠ 0) :
    decodeWord w = .error .reservedField := by
  simp only [decodeWord, findOpcode_of_match w o h, if_neg hr]

/-- Where a row's bit 31 is zero, no row has its other opcode bits with bit 31 one (R127). -/
theorem findOpcode_matchBits_or_one (o : Opcode) (h : o.matchBits.getLsbD 0 = false) :
    findOpcode (o.matchBits ||| 1#32) = none := by
  revert h
  cases o <;> decide

/-- Where a row's bit 31 is one, no row has its other opcode bits with bit 31 zero (R127). -/
theorem findOpcode_matchBits_and_not_one (o : Opcode) (h : o.matchBits.getLsbD 0 = true) :
    findOpcode (o.matchBits &&& ~~~1#32) = none := by
  revert h
  cases o <;> decide

/-- Bit 31 of a row that reserves it, set and then cleared, is as the row has it. -/
theorem matchBits_or_one_and_not_one (o : Opcode) (h : o.matchBits.getLsbD 0 = false) :
    (o.matchBits ||| 1#32) &&& ~~~1#32 = o.matchBits := by
  revert h
  cases o <;> decide

/-- Bit 31 of a dotted row, cleared and then set, is as the row has it. -/
theorem matchBits_and_not_one_or_one (o : Opcode) (h : o.matchBits.getLsbD 0 = true) :
    o.matchBits &&& ~~~1#32 ||| 1#32 = o.matchBits := by
  revert h
  cases o <;> decide

/-- A row's word but with its reserved bit 31 set is refused (R132, D5). -/
theorem decodeWord_of_reserved_bit31 {w : Word32} {o : Opcode} (ho : o.matchBits.getLsbD 0 = false)
    (h : w &&& opcodeMask = o.matchBits ||| 1#32) : decodeWord w = .error .reservedField := by
  have hnone : findOpcode w = none := by rw [← findOpcode_and_opcodeMask, h, findOpcode_matchBits_or_one o ho]
  have hrow : (w &&& ~~~1#32) &&& opcodeMask = o.matchBits := by
    rw [and_and_opcodeMask, h, matchBits_or_one_and_not_one o ho]
  exact decodeWord_of_hasReservedBit31 hnone (Option.isSome_of_eq_some (findOpcode_of_match _ o hrow))

/-- A dotted row's word but with bit 31 zero is refused (R132). -/
theorem decodeWord_of_undotted {w : Word32} {o : Opcode} (ho : o.matchBits.getLsbD 0 = true)
    (h : w &&& opcodeMask = o.matchBits &&& ~~~1#32) : decodeWord w = .error .undefinedEncoding := by
  have hnone : findOpcode w = none := by rw [← findOpcode_and_opcodeMask, h, findOpcode_matchBits_and_not_one o ho]
  have hclear : (w &&& ~~~1#32) &&& opcodeMask = o.matchBits &&& ~~~1#32 := by
    rw [and_and_opcodeMask, h, BitVec.and_assoc, BitVec.and_self]
  have hrow : (w ||| 1#32) &&& opcodeMask = o.matchBits := by
    rw [BitVec.and_or_distrib_right, h]
    exact matchBits_and_not_one_or_one o ho
  refine decodeWord_of_lacksBit31 hnone ?_ (Option.isSome_of_eq_some (findOpcode_of_match _ o hrow))
  rw [hasReservedBit31, ← findOpcode_and_opcodeMask, hclear, findOpcode_matchBits_and_not_one o ho, Option.isSome_none]

/-- Settles O4: one clause for each kind of refusal. -/
theorem decodeReserved : Obligations.DecodeReserved := fun _ _ =>
  ⟨decodeWord_of_reservedBits, decodeWord_of_reserved_bit31, decodeWord_of_undotted⟩

end Sys2Proof
end

section
/-!
PROOFS. The machine's invariant along what happens to a thread short of an instruction (40_tm_states_failure.md rules R150, R158, R184, R185).
-/

namespace Sys2Proof.Machine

/-! ### Results -/

/-- Where the result is a next state, it satisfies `P`. -/
def yields (P : State → Prop) (r : Result) : Prop := ∀ t, r = .next t → P t

theorem yields.next {P : State → Prop} {t : State} (h : P t) : yields P (.next t) := by rintro u ⟨⟩; exact h

theorem yields.fault {P : State → Prop} (r : Fault) : yields P (.fault r) := by rintro t ⟨⟩

theorem yields.refused {P : State → Prop} (r : Refusal) : yields P (.refused r) := by rintro t ⟨⟩

/-! ### Transaction states -/

theorem State.ts_ne_of_active {s : State} (h : s.active = true) : s.ts ≠ tsN := by
  intro hN
  simp [State.active, hN, tsN, tsT, tsS] at h

/-- No value of TS but N, S, T and the reserved one (R150). -/
theorem ts_eq_suspended {ts : BitVec 2} (hN : ts ≠ tsN) (hT : ts ≠ tsT) (hlegal : ts ≠ 0b11) : ts = tsS := by
  revert ts
  decide

theorem interruptTs_eq_tsN_iff (ts : BitVec 2) : interruptTs ts = tsN ↔ ts = tsN := by
  revert ts
  decide

theorem interruptTs_ne_tsT (ts : BitVec 2) : interruptTs ts ≠ tsT := by
  revert ts
  decide

theorem interruptTs_legal {ts : BitVec 2} (h : ts ≠ 0b11) : interruptTs ts ≠ 0b11 := by
  revert ts
  decide

/-! ### Addresses of bytes -/

theorem addressesFrom_lt {a : Word} {n x : Nat} (h : x ∈ addressesFrom a n) : x < 2 ^ 64 := by
  obtain ⟨i, -, rfl⟩ := List.mem_map.1 h
  exact BitVec.isLt _

theorem State.operandAddresses_lt {s : State} {ea : Word} {n x : Nat} (h : x ∈ s.operandAddresses ea n) : x < 2 ^ 64 := by
  obtain ⟨i, -, rfl⟩ := List.mem_map.1 h
  exact BitVec.isLt _

theorem State.storedCells_lt (s : State) (ea : Word) (parts : List StorePart) : ∀ c ∈ s.storedCells ea parts, c.1 < 2 ^ 64 :=
  fun _ hc => State.operandAddresses_lt (List.of_mem_zip hc).1

theorem State.dcbzCells_lt (s : State) (ea : Word) : ∀ c ∈ s.dcbzCells ea, c.1 < 2 ^ 64 := by
  intro c hc
  obtain ⟨x, hx, rfl⟩ := List.mem_map.1 hc
  exact addressesFrom_lt hx

/-- What a draw picks from a list is in the list. -/
theorem State.mem_of_mem_someOf {α : Type} {s : State} {l : List α} {x : α} (h : x ∈ s.someOf l) : x ∈ l := by
  obtain ⟨⟨y, i⟩, hy, rfl⟩ := List.mem_map.1 h
  exact List.fst_mem_of_mem_zipIdx (List.mem_of_mem_filter hy)

/-! ### Ways to the invariant -/

/-- In Non-transactional state, with nothing of a transaction held, the invariant asks for storage and NIA only (R185 item 2). -/
theorem State.Inv.of_nontransactional {t : State} (hmem : t.mem.wf) (hN : t.ts = tsN) (htm : t.tm = Facility.idle)
    (hnia : wordAlign t.nia = t.nia) : t.Inv where
  memory := hmem
  tsLegal := by rw [hN]; decide
  tmEnabled h := by rw [hN] at h; exact absurd h (by decide)
  idle _ := htm
  checkpoint h := absurd hN h
  niaAligned := hnia
  txData := by rw [htm]; exact ⟨List.Pairwise.nil, nofun⟩
  owed h := by rw [htm] at h; cases h
  doomed h := absurd hN h
  discarded h := by rw [htm] at h; cases h
  level h := absurd hN h
  asleep _ := hN

/-- The transaction, if there is one, stays as it is, while it may be suspended or resumed: the invariant is kept if the new transaction state
is one the invariant allows. -/
theorem State.Inv.of_same_transaction {s t : State} (hs : s.Inv) (hmem : t.mem.wf) (htm : t.tm = s.tm)
    (htexasr : t.sprs.texasr = s.sprs.texasr) (hpower : t.power = s.power) (hnia : wordAlign t.nia = t.nia)
    (hN : t.ts = tsN ↔ s.ts = tsN) (hlegal : t.ts ≠ 0b11)
    (hT : t.ts = tsT → msrTm t.msr = true ∧ s.tm.handleOnResume = false) : t.Inv where
  memory := hmem
  tsLegal := hlegal
  tmEnabled h := (hT h).1
  idle h := htm.trans (hs.idle (hN.1 h))
  checkpoint h := by rw [htm]; exact hs.checkpoint fun h' => h (hN.2 h')
  niaAligned := hnia
  txData := by rw [htm]; exact hs.txData
  owed h := by
    rw [htm] at h ⊢
    obtain ⟨hS, hd, hfs, hdisc⟩ := hs.owed h
    have hactive : t.ts ≠ tsN := fun h' => absurd (hS.symm.trans (hN.1 h')) (by decide)
    refine ⟨ts_eq_suspended hactive (fun h' => ?_) hlegal, hd, ?_, hdisc⟩
    · exact Bool.false_ne_true ((hT h').2.symm.trans h)
    · rw [State.fs, htexasr]; exact hfs
  doomed h hfs := by
    rw [htm]
    rw [State.fs, htexasr] at hfs
    exact hs.doomed (fun h' => h (hN.2 h')) hfs
  discarded h := by rw [htm] at h ⊢; exact hs.discarded h
  level h ho := by
    rw [htm] at ho
    rw [htexasr]
    exact hs.level (fun h' => h (hN.2 h')) ho
  asleep h := hN.2 (hs.asleep (hpower ▸ h))

/-- What the facility of an active transaction may become while the transaction goes on (R55, R158): it keeps its checkpoint, stays doomed,
and holds no updates once they are discarded. -/
structure Facility.GoesOn (f g : Facility) : Prop where
  checkpoint : g.checkpoint = f.checkpoint
  owed : g.handleOnResume = f.handleOnResume
  doomed : f.tdoomed = true → g.tdoomed = true
  discarded : f.updatesDiscarded = true → g.updatesDiscarded = true
  txData : (cellsRise f.txData ∧ ∀ c ∈ f.txData, c.1 < 2 ^ 64) → cellsRise g.txData ∧ ∀ c ∈ g.txData, c.1 < 2 ^ 64
  dropped : (f.updatesDiscarded = true → f.txData = []) → g.updatesDiscarded = true → g.txData = []

/-- A facility whose speculative updates stay goes on, whatever its footprint and its causes of failure become. -/
theorem Facility.GoesOn.of_same_data {f g : Facility} (hcheckpoint : g.checkpoint = f.checkpoint)
    (howed : g.handleOnResume = f.handleOnResume) (hdoomed : f.tdoomed = true → g.tdoomed = true)
    (hdiscarded : g.updatesDiscarded = f.updatesDiscarded) (hdata : g.txData = f.txData) : f.GoesOn g where
  checkpoint := hcheckpoint
  owed := howed
  doomed := hdoomed
  discarded h := hdiscarded.trans h
  txData h := by rw [hdata]; exact h
  dropped h h' := by rw [hdata]; exact h (hdiscarded ▸ h')

/-- The transaction level is between 1 and TLmax (R185 item 7). -/
def levelInRange (texasr : Word) : Prop := 1 ≤ (texasrTl texasr).toNat ∧ (texasrTl texasr).toNat ≤ Config.tlMax

/-! ### Steady changes -/

/-- A change of the thread short of an instruction: it keeps the invariant, the MSR, NIA, the power-saving level and TFHAR. -/
structure Steady (s u : State) : Prop where
  inv : s.Inv → u.Inv
  msr : u.msr = s.msr
  nia : u.nia = s.nia
  power : u.power = s.power
  tfhar : u.sprs.tfhar = s.sprs.tfhar

namespace Steady

theorem refl (s : State) : Steady s s := ⟨id, rfl, rfl, rfl, rfl⟩

theorem trans {s u v : State} (h : Steady s u) (k : Steady u v) : Steady s v :=
  ⟨k.inv ∘ h.inv, k.msr.trans h.msr, k.nia.trans h.nia, k.power.trans h.power, k.tfhar.trans h.tfhar⟩

theorem ts {s u : State} (h : Steady s u) : u.ts = s.ts := State.ts_eq h.msr

/-- A change that does not reach the transaction. -/
theorem of_tm {s u : State} (hmem : s.mem.wf → u.mem.wf) (hmsr : u.msr = s.msr) (hnia : u.nia = s.nia) (hpower : u.power = s.power)
    (htm : u.tm = s.tm) (htexasr : u.sprs.texasr = s.sprs.texasr) (htfhar : u.sprs.tfhar = s.sprs.tfhar) : Steady s u where
  inv hs := by
    have hts : u.ts = s.ts := State.ts_eq hmsr
    refine hs.of_same_transaction (hmem hs.memory) htm htexasr hpower (hnia ▸ hs.niaAligned) (by rw [hts]) (hts ▸ hs.tsLegal) fun h => ?_
    rw [hts] at h
    refine ⟨hmsr ▸ hs.tmEnabled h, Bool.eq_false_iff.2 fun ho => ?_⟩
    exact absurd (h.symm.trans (hs.owed ho).1) (by decide)
  msr := hmsr
  nia := hnia
  power := hpower
  tfhar := htfhar

/-- A change of an active transaction that goes on, its failure perhaps recorded, its level perhaps another one. -/
theorem of_goesOn {s u : State} (hN : s.ts ≠ tsN) (hmem : u.mem = s.mem) (hmsr : u.msr = s.msr) (hnia : u.nia = s.nia)
    (hpower : u.power = s.power) (htfhar : u.sprs.tfhar = s.sprs.tfhar) (htm : s.tm.GoesOn u.tm)
    (htl : levelInRange s.sprs.texasr → levelInRange u.sprs.texasr) (hfs : u.fs = s.fs ∨ u.fs = true ∧ u.tm.tdoomed = true) :
    Steady s u where
  inv hs := by
    have hts : u.ts = s.ts := State.ts_eq hmsr
    exact {
      memory := by rw [hmem]; exact hs.memory
      tsLegal := hts ▸ hs.tsLegal
      tmEnabled := fun h => hmsr ▸ hs.tmEnabled (hts ▸ h)
      idle := fun h => absurd (hts ▸ h) hN
      checkpoint := fun _ => htm.checkpoint ▸ hs.checkpoint hN
      niaAligned := hnia ▸ hs.niaAligned
      txData := htm.txData hs.txData
      owed := fun h => by
        obtain ⟨hS, hd, hrec, hdisc⟩ := hs.owed (htm.owed ▸ h)
        exact ⟨hts ▸ hS, htm.doomed hd, hfs.elim (fun e => e.trans hrec) And.left, htm.discarded hdisc⟩
      doomed := fun _ h => hfs.elim (fun e => htm.doomed (hs.doomed hN (e ▸ h))) And.right
      discarded := htm.dropped hs.discarded
      level := fun _ h => htl (hs.level hN (htm.owed ▸ h))
      asleep := fun h => absurd (hs.asleep (hpower ▸ h)) hN }
  msr := hmsr
  nia := hnia
  power := hpower
  tfhar := htfhar

/-- A change of the footprint or of the causes of failure of an active transaction. -/
theorem of_footprint {s u : State} (hN : s.ts ≠ tsN) (hmem : u.mem = s.mem) (hmsr : u.msr = s.msr) (hnia : u.nia = s.nia)
    (hpower : u.power = s.power) (hsprs : u.sprs = s.sprs) (hcheckpoint : u.tm.checkpoint = s.tm.checkpoint)
    (howed : u.tm.handleOnResume = s.tm.handleOnResume) (hdoomed : s.tm.tdoomed = true → u.tm.tdoomed = true)
    (hdiscarded : u.tm.updatesDiscarded = s.tm.updatesDiscarded) (hdata : u.tm.txData = s.tm.txData) : Steady s u :=
  of_goesOn hN hmem hmsr hnia hpower (by rw [hsprs]) (.of_same_data hcheckpoint howed hdoomed hdiscarded hdata)
    (by rw [hsprs]; exact id) (.inl (State.fs_eq hsprs))

/-! ### Causes of failure -/

theorem tick (s : State) : Steady s s.tick := .of_tm id rfl rfl rfl rfl rfl rfl

theorem ticks (s : State) (n : Nat) : Steady s (s.ticks n) := .of_tm id rfl rfl rfl rfl rfl rfl

theorem detect (s : State) (c : ImpreciseCause) : Steady s (s.detect c) := by
  cases h : s.active with
  | false => rw [State.detect_of_not_active h]; exact .refl s
  | true =>
    rw [State.detect, if_pos h]
    exact .of_footprint (State.ts_ne_of_active h) rfl rfl rfl rfl rfl rfl rfl (fun _ => rfl) rfl rfl

theorem arise (s : State) (l : Latent) : Steady s (s.arise l) := by
  cases h : s.active with
  | false => rw [State.arise_of_not_active h]; exact .refl s
  | true =>
    obtain ⟨tdoomed, pending, latent, draws, hu, hd⟩ := s.arise_frame l
    rw [hu]
    exact .of_footprint (State.ts_ne_of_active h) rfl rfl rfl rfl rfl rfl rfl hd rfl rfl

theorem tick_arise (s : State) (l : Latent) : Steady s (s.tick.arise l) := (tick s).trans (arise s.tick l)

/-- In Non-transactional state no cause waits to be settled. -/
theorem settle (s : State) (p : Latent → Bool) : Steady s (s.settle p) where
  inv hs := by
    by_cases hN : s.ts = tsN
    · rw [State.settle_of_none (by rw [hs.idle hN]; exact nofun)]
      exact hs
    · refine Steady.inv (s := s) ?_ hs
      exact of_footprint hN rfl rfl rfl rfl rfl rfl rfl (fun h => by simp [State.settle, h]) rfl rfl
  msr := rfl
  nia := rfl
  power := rfl
  tfhar := rfl

/-- Recording a failure of an active transaction (R172). -/
theorem recordFailure {s : State} (hN : s.ts ≠ tsN) (c : Word32) (ia : Option Word) : Steady s (s.recordFailure c ia) := by
  cases hfs : s.fs with
  | true => rw [State.recordFailure_of_fs hfs]; exact .refl s
  | false =>
    have htm : (s.recordFailure c ia).tm = { s.tm with tdoomed := true } := by rw [State.recordFailure_tm, hfs]; rfl
    refine .of_goesOn hN (s.recordFailure_mem c ia) (s.recordFailure_msr c ia) (s.recordFailure_nia c ia) (s.recordFailure_power c ia)
      (by rw [s.recordFailure_sprs c ia]) ?_ (by rw [levelInRange, levelInRange, State.recordFailure_tl]; exact id)
      (.inr ⟨s.recordFailure_fs c ia, by rw [htm]⟩)
    rw [htm]
    exact .of_same_data rfl rfl (fun _ => rfl) rfl rfl

theorem recordPending {s : State} (hN : s.ts ≠ tsN) : Steady s s.recordPending := by
  unfold State.recordPending State.recordImprecise
  split
  · exact .refl s
  · exact ((tick s).trans (tick _)).trans (recordFailure (s := s.tick.tick) hN _ _)

theorem discardUpdates {s : State} (hN : s.ts ≠ tsN) : Steady s s.discardUpdates :=
  .of_goesOn hN rfl rfl rfl rfl rfl ⟨rfl, rfl, id, fun _ => rfl, fun _ => ⟨List.Pairwise.nil, nofun⟩, fun _ _ => rfl⟩ id (.inl rfl)

/-! ### Pages -/

theorem touchPages (s : State) (addrs : List Nat) (setR setC : Bool) : Steady s (s.touchPages addrs setR setC) :=
  .of_tm id rfl rfl rfl rfl rfl rfl

theorem mayTouchPages (s : State) (addrs : List Nat) (mayChange : Bool) : Steady s (s.mayTouchPages addrs mayChange) :=
  .of_tm id rfl rfl rfl rfl rfl rfl

theorem recordAccess (s : State) (isStore : Bool) (addrs : List Nat) : Steady s (s.recordAccess isStore addrs) := by
  unfold State.recordAccess
  split
  · exact mayTouchPages s addrs isStore
  · exact touchPages s addrs true isStore

/-! ### Other processors -/

theorem popTape (s : State) : Steady s s.popTape := by
  unfold State.popTape
  split <;> exact .of_tm id rfl rfl rfl rfl rfl rfl

theorem externalConflict (s : State) (who : OtherAgent) (stored : Bool) (addrs : List Nat) (foot spec : List Foot) :
    Steady s (s.externalConflict who stored addrs foot spec) := by
  rcases s.externalConflict_cases who stored addrs foot spec with h | ⟨l, h⟩ <;> rw [h]
  · exact .refl s
  · exact tick_arise s l

theorem translationInvalidated (s : State) (base size : Nat) : Steady s (s.translationInvalidated base size) := by
  unfold State.translationInvalidated
  split <;> exact arise s _

theorem applyExternal (s : State) (e : ExternalEvent) : Steady s (s.applyExternal e) := by
  cases e with
  | load who addr size => exact externalConflict s who false _ _ _
  | store who addr bytes =>
    have h := externalConflict s who (storePerformed who (touches s.tm.footprint (addressesFrom addr bytes.length)))
      (addressesFrom addr bytes.length) s.tm.footprint s.tm.speculated
    unfold State.applyExternal
    dsimp only
    split
    · refine h.trans (.of_tm (fun hm => Memory.wf_writeCells hm fun c hc => ?_) rfl rfl rfl rfl rfl rfl)
      exact addressesFrom_lt (List.of_mem_zip hc).1
    · exact h
  | tlbie base size => exact translationInvalidated s base size
  | cacheFlush addr | cacheClean addr =>
    rw [State.applyExternal]
    split
    · exact tick_arise s _
    · exact .refl s
  | fetch addr =>
    rw [State.applyExternal]
    rcases s.externalFetch_cases [addr.toNat] with h | ⟨ia, h⟩ <;> rw [h]
    · exact .refl s
    · exact tick_arise s _
  | loseReservation | raise i | perfmon i v => exact .of_tm id rfl rfl rfl rfl rfl rfl

theorem applyExternals (s : State) (events : List ExternalEvent) : Steady s (s.applyExternals events) := by
  induction events generalizing s with
  | nil => exact .refl s
  | cons e rest ih => exact (applyExternal s e).trans (ih _)

/-! ### The failure agent and the fetch -/

theorem mayFailOn (s : State) (foot : List Foot) (c : ImpreciseCause) (addr : Nat) : Steady s (s.mayFailOn foot c addr) := by
  rcases s.mayFailOn_cases foot c addr with h | h <;> rw [h]
  · exact .refl s
  · exact arise s _

/-- What is done out of order and never executed joins no footprint but that of an active transaction (R169). -/
theorem speculate (s : State) (o : Option Speculation) : Steady s (s.speculate o) := by
  rcases o with _ | (⟨addr, ia⟩ | ⟨addr, ia, required⟩ | ⟨addr, ia, required⟩ | ⟨op, addr, ia⟩ | ⟨base, size⟩ | ⟨addr, ia⟩)
  · exact .refl s
  · rw [State.speculate]
    split
    · rename_i h
      exact .of_footprint (State.ts_ne_of_active (Bool.and_eq_true_iff.1 h).1) rfl rfl rfl rfl rfl rfl rfl id rfl rfl
    · exact mayTouchPages s _ _
  · rw [State.speculate]
    split
    · rename_i h
      exact .of_footprint (State.ts_ne_of_active h) rfl rfl rfl rfl rfl rfl rfl id rfl rfl
    · exact mayTouchPages s _ _
  · exact (mayTouchPages s _ _).trans (mayFailOn _ _ _ _)
  · rw [State.speculate]
    split
    · exact (mayTouchPages s _ _).trans (mayFailOn _ _ _ _)
    · exact mayTouchPages s _ _
  · exact arise s _
  · exact (mayTouchPages s _ _).trans (mayFailOn _ _ _ _)

theorem agentTouch (s : State) (o : Option (Nat × Bool)) : Steady s (s.agentTouch o) := by
  unfold State.agentTouch
  split
  · exact .refl s
  · split
    · exact .refl s
    · exact touchPages s _ _ _

/-- A latent cause that is detected is one of an active transaction: in Non-transactional state there is none. -/
theorem detectLatent (s : State) (i : Nat) {l : Latent} (hl : s.tm.latent[i]? = some l) :
    Steady s { s with tm := { s.tm with latent := s.tm.latent.eraseIdx i } } where
  inv hs := by
    by_cases hN : s.ts = tsN
    · rw [hs.idle hN] at hl
      cases hl
    · refine Steady.inv (s := s) ?_ hs
      exact of_footprint hN rfl rfl rfl rfl rfl rfl rfl id rfl rfl
  msr := rfl
  nia := rfl
  power := rfl
  tfhar := rfl

theorem agentDetect (s : State) (o : Option Detection) : Steady s (s.agentDetect o) := by
  rcases o with _ | (_ | _ | implSpecific | i)
  · exact .refl s
  · exact (tick s).trans (detect _ _)
  · exact detect s _
  · exact detect s _
  · rw [State.agentDetect]
    split
    · exact .refl s
    · exact (detectLatent s i ‹_›).trans (detect _ _)

theorem agentRecord (s : State) (record : Bool) : Steady s (s.agentRecord record) := by
  unfold State.agentRecord
  split
  · rename_i h
    simp only [Bool.and_eq_true] at h
    exact recordPending (State.ts_ne_of_active h.1.1.2)
  · exact .refl s

theorem agentDiscard (s : State) (discard : Bool) : Steady s (s.agentDiscard discard) := by
  unfold State.agentDiscard
  split
  · rename_i h
    simp only [Bool.and_eq_true] at h
    exact discardUpdates (State.ts_ne_of_active h.1.2)
  · exact .refl s

theorem agent (s : State) (d : AgentDraw) : Steady s (s.agent d) :=
  ((((speculate s d.speculate).trans (agentTouch _ _)).trans (agentDetect _ _)).trans (agentRecord _ _)).trans (agentDiscard _ _)

theorem noteExecuted (s : State) : Steady s s.noteExecuted := by
  unfold State.noteExecuted
  split
  · rename_i h
    exact .of_footprint (State.ts_ne_of_active h) rfl rfl rfl rfl rfl rfl rfl id rfl rfl
  · exact .refl s

theorem afterFetch (s : State) : Steady s s.afterFetch := by
  have hsettle : Steady s ((s.noteExecuted.tick.tick.touchPages s.fetchAddresses true false).settle (·.overwrote s.fetchAddresses)) :=
    (((noteExecuted s).trans (ticks _ 2)).trans (touchPages _ _ _ _)).trans (settle _ _)
  unfold State.afterFetch
  dsimp only
  split
  · exact hsettle.trans (arise _ _)
  · exact hsettle

theorem fetched (s : State) (b : Boundary) : Steady s (s.fetched b) := (afterFetch s).trans (agentRecord _ _)

theorem afterStoppedFetch (s : State) : Steady s s.afterStoppedFetch := (ticks s 2).trans (mayTouchPages _ _ _)

/-! ### Registers -/

theorem setGpr (s : State) (r : RegNum) (v : Word) : Steady s (s.setGpr r v) := .of_tm id rfl rfl rfl rfl rfl rfl

theorem setCr0State (s : State) : Steady s s.setCr0State := .of_tm id rfl rfl rfl rfl rfl rfl

theorem writeRegs (s : State) (ws : List RegWrite) : Steady s (s.writeRegs ws) := by
  rw [s.writeRegs_frame ws]
  exact .of_tm id rfl rfl rfl rfl rfl rfl

theorem place (s : State) (bytes : List Byte) (parts : List LoadPart) : Steady s (s.place bytes parts) := by
  rw [s.place_frame]
  exact .of_tm id rfl rfl rfl rfl rfl rfl

theorem log (s : State) (e : StorageEvent) : Steady s (s.log e) := .of_tm id rfl rfl rfl rfl rfl rfl

theorem reservation (s : State) (r : Option Reservation) : Steady s { s with reservation := r } := .of_tm id rfl rfl rfl rfl rfl rfl

/-- A write of a special purpose register of which no bit belongs to TFHAR or TEXASR. -/
theorem writeSpr (s : State) (v : Word) {reg : Spr} (h : reg.isTm = false) : Steady s (s.writeSpr v reg) := by
  have hkept {other : Spr} (hw : other.whole ≠ reg.whole) := s.readSpr_writeSpr_of_whole_ne v hw
  have htexasr : (s.writeSpr v reg).sprs.texasr = s.sprs.texasr := hkept (other := .texasr) (by rintro e; cases reg <;> cases h <;> cases e)
  have htfhar : (s.writeSpr v reg).sprs.tfhar = s.sprs.tfhar := hkept (other := .tfhar) (by rintro e; cases reg <;> cases h <;> cases e)
  rw [s.writeSpr_frame v reg]
  exact .of_tm id rfl rfl rfl rfl htexasr htfhar

/-! ### Data accesses -/

theorem detectOverwritten (s : State) (addrs : List Nat) : Steady s (s.detectOverwritten addrs) := settle s _

theorem noteRead (s : State) (addrs : List Nat) : Steady s (s.noteRead addrs) := by
  unfold State.noteRead
  dsimp only
  split
  · rename_i h
    have hN : s.ts ≠ tsN := by rw [h]; decide
    split <;> exact .of_footprint hN rfl rfl rfl rfl rfl rfl rfl id rfl rfl
  · exact .refl s

theorem noteLoad (s : State) (addrs : List Nat) : Steady s (s.noteLoad addrs) := by
  unfold State.noteLoad
  split
  · rename_i h
    have hread := noteRead s addrs
    refine hread.trans (.of_footprint ?_ rfl rfl rfl rfl rfl rfl rfl id rfl rfl)
    rw [hread.ts]
    exact State.ts_ne_of_active h
  · exact .refl s

/-- Speculative updates stay listed by rising effective addresses, and discarded ones stay dropped (R82). -/
theorem storeTransactional {s : State} (hN : s.ts ≠ tsN) {cells : List Host.Cell} (hcells : ∀ c ∈ cells, c.1 < 2 ^ 64) :
    Steady s (s.storeTransactional cells) := by
  refine .of_goesOn hN rfl rfl rfl rfl rfl ⟨rfl, rfl, id, id, fun ⟨hrise, hlt⟩ => ?_, fun hdropped h => ?_⟩ id (.inl rfl)
  · unfold State.storeTransactional
    dsimp only
    split
    · exact ⟨hrise, hlt⟩
    · exact ⟨cellsRise_foldl_cellPut cells hrise, fun c hc => (mem_foldl_cellPut hc).elim (hcells c) (hlt c)⟩
  · unfold State.storeTransactional at h ⊢
    dsimp only at h ⊢
    rw [if_pos h]
    exact hdropped h

theorem selfConflict (s : State) (addrs : List Nat) : Steady s (s.selfConflict addrs) := by
  unfold State.selfConflict
  dsimp only
  split
  · exact arise s _
  · split
    · exact arise s _
    · exact .refl s

/-- A newer store removes speculative updates; the rest are listed as before (R86). -/
theorem supersede {s : State} (hN : s.ts ≠ tsN) (addrs : List Nat) : Steady s (s.supersede addrs) := by
  refine .of_goesOn hN rfl rfl rfl rfl rfl ⟨rfl, rfl, id, id, fun ⟨hrise, hlt⟩ => ?_, fun hdropped h => ?_⟩ id (.inl rfl)
  · exact ⟨State.supersede_rise hrise addrs, fun c hc => hlt c (List.mem_of_mem_filter hc)⟩
  · show s.tm.txData.filter _ = []
    rw [hdropped h]
    rfl

theorem storeNow (s : State) {cells : List Host.Cell} (hcells : ∀ c ∈ cells, c.1 < 2 ^ 64) : Steady s (s.storeNow cells) := by
  unfold State.storeNow
  dsimp only
  split
  · rename_i h
    have hconflict := selfConflict s (cells.map (·.1))
    have hN : (s.selfConflict (cells.map (·.1))).ts ≠ tsN := by rw [hconflict.ts, h]; decide
    exact (hconflict.trans (supersede hN _)).trans (.of_tm (Memory.wf_writeCells · hcells) rfl rfl rfl rfl rfl rfl)
  · exact .of_tm (Memory.wf_writeCells · hcells) rfl rfl rfl rfl rfl rfl

theorem storeCells (s : State) {cells : List Host.Cell} (hcells : ∀ c ∈ cells, c.1 < 2 ^ 64) : Steady s (s.storeCells cells) := by
  unfold State.storeCells
  split
  · rename_i h
    exact storeTransactional (by rw [h]; decide) hcells
  · exact storeNow s hcells

/-- The bytes of a stopped access that are performed all the same (R112). -/
theorem accessOthers (s : State) (isStore : Bool) (addrs : List Nat) {cells : List Host.Cell} (hcells : ∀ c ∈ cells, c.1 < 2 ^ 64) :
    Steady s (s.accessOthers isStore addrs cells) := by
  unfold State.accessOthers
  dsimp only
  split
  · refine ((ticks s _).trans (recordAccess _ _ _)).trans (storeCells _ fun c hc => hcells c ?_)
    exact List.mem_of_mem_filter (State.mem_of_mem_someOf hc)
  · exact ((ticks s _).trans (recordAccess _ _ _)).trans (noteLoad _ _)

end Steady

end Sys2Proof.Machine
end

section
/-!
PROOFS. What one step can do: it keeps the machine's invariant, TFHAR while a transaction is active, and Non-transactional state but for tbegin. and
trechkpt. (40_tm_states_failure.md rules R150, R157, R158, R185; 46_msr_linkage.md rule R259).
-/

namespace Sys2Proof.Machine

/-- What may follow a state: one with the invariant, with the same TFHAR while a transaction is active, and Non-transactional again unless
something `leaves` that state. -/
structure Follows (leaves : Prop) (s t : State) : Prop where
  inv : t.Inv
  handler : s.ts ≠ tsN → t.sprs.tfhar = s.sprs.tfhar
  stays : s.ts = tsN → t.ts = tsN ∨ leaves

variable {L : Prop} {s : State}

theorem Follows.refl (hs : s.Inv) : Follows L s s := ⟨hs, fun _ => rfl, .inl⟩

theorem Follows.steady {u v : State} (h : Follows L s u) (k : Steady u v) : Follows L s v where
  inv := k.inv h.inv
  handler hN := k.tfhar.trans (h.handler hN)
  stays hN := by rw [k.ts]; exact h.stays hN

theorem Steady.follows {u : State} (h : Steady s u) (hs : s.Inv) : Follows L s u := (Follows.refl hs).steady h

/-- What follows after a steady change follows. -/
theorem Follows.of_steady {u t : State} (h : Steady s u) (k : Follows L u t) : Follows L s t where
  inv := k.inv
  handler hN := (k.handler (by rw [h.ts]; exact hN)).trans h.tfhar
  stays hN := k.stays (h.ts.trans hN)

/-- From an active transaction, any state with the invariant and the same TFHAR may follow. -/
theorem Follows.of_active {t : State} (hN : s.ts ≠ tsN) (hinv : t.Inv) (htfhar : t.sprs.tfhar = s.sprs.tfhar) : Follows L s t :=
  ⟨hinv, fun _ => htfhar, fun h => absurd h hN⟩

/-- A transaction ends: Non-transactional, with nothing of it held. -/
theorem Follows.of_ended {t : State} (hmem : t.mem.wf) (hN : t.ts = tsN) (htm : t.tm = Facility.idle) (hnia : wordAlign t.nia = t.nia)
    (htfhar : t.sprs.tfhar = s.sprs.tfhar) : Follows L s t :=
  ⟨.of_nontransactional hmem hN htm hnia, fun _ => htfhar, fun _ => .inl hN⟩

/-- The next address is another aligned one, and the instruction is traced or not. -/
theorem Follows.jump {u : State} (h : Follows L s u) {a : Word} (ha : wordAlign a = a) (completed : Bool) :
    Follows L s { u with nia := a, completed := completed } where
  inv := h.inv.of_same_transaction h.inv.memory rfl rfl rfl ha Iff.rfl h.inv.tsLegal fun hT =>
    ⟨h.inv.tmEnabled hT, Bool.eq_false_iff.2 fun ho => absurd (hT.symm.trans (h.inv.owed ho).1) (by decide)⟩
  handler := h.handler
  stays := h.stays

theorem Follows.complete {u : State} (h : Follows L s u) : Follows L s u.complete :=
  h.jump (wordAlign_add_four h.inv.niaAligned) true

/-! ### Interrupts -/

/-- An interrupt suspends a transaction and leaves all else of it (R290, R291): taken by a thread that differs from one with the invariant in its
MSR, but is in an allowed transaction state, it gives the invariant. -/
theorem State.Inv.takeInterrupt (hs : s.Inv) {u : State} (hmem : u.mem = s.mem) (htm : u.tm = s.tm) (hsprs : u.sprs = s.sprs)
    (hpower : u.power = s.power) (hN : u.ts = tsN ↔ s.ts = tsN) (hlegal : u.ts ≠ 0b11) (k : InterruptKind) (a v : Word) :
    (u.takeInterrupt k a v).Inv := by
  have hts := u.takeInterrupt_ts k a v
  refine hs.of_same_transaction (hmem ▸ hs.memory) htm ?_ hpower (wordAlign_wordAlign _) ?_ ?_ fun hT => ?_
  · rw [State.takeInterrupt_texasr, hsprs]
  · rw [hts, interruptTs_eq_tsN_iff, hN]
  · rw [hts]; exact interruptTs_legal hlegal
  · exact absurd (hts.symm.trans hT) (interruptTs_ne_tsT _)

theorem Follows.takeInterrupt {u : State} (h : Follows L s u) (k : InterruptKind) (a v : Word) : Follows L s (u.takeInterrupt k a v) where
  inv := h.inv.takeInterrupt rfl rfl rfl rfl Iff.rfl h.inv.tsLegal k a v
  handler hN := (u.takeInterrupt_tfhar k a v).trans (h.handler hN)
  stays hN := by rw [State.takeInterrupt_ts, interruptTs_eq_tsN_iff]; exact h.stays hN

theorem Follows.freeStatusInterrupt {u : State} (h : Follows L s u) (k : InterruptKind) (a : Word) :
    Follows L s (u.freeStatusInterrupt k a) := (h.steady (.tick u)).takeInterrupt k a _

theorem Follows.emulationAssistance {u : State} (h : Follows L s u) : Follows L s u.emulationAssistance :=
  (h.freeStatusInterrupt _ u.nia).steady (.of_tm id rfl rfl rfl rfl rfl rfl)

theorem Follows.takeAsync {u : State} (h : Follows L s u) (i : AsyncInterrupt) : Follows L s (u.takeAsync i) :=
  Follows.freeStatusInterrupt (u := { u with pendingInterrupts := u.pendingInterrupts.erase i })
    (h.steady (.of_tm id rfl rfl rfl rfl rfl rfl)) i.kind u.nia

theorem Follows.dataInterrupt {u : State} (h : Follows L s u) (e : DataException) : Follows L s (u.dataInterrupt e) := by
  refine (h.freeStatusInterrupt e.interrupt u.nia).steady (.of_tm id rfl rfl rfl rfl ?_ ?_) <;>
  · unfold State.dataInterrupt
    dsimp only
    split <;> rfl

theorem traceAfter_follows (traced : Bool) {r : Result} (h : yields (Follows L s) r) : yields (Follows L s) (traceAfter traced r) := by
  rcases traceAfter_cases (rfl : traceAfter traced r = _) with e | ⟨t, rfl, -, -, ⟨-, e⟩ | ⟨-, e⟩⟩ <;> rw [e]
  · exact h
  · exact .next ((h t rfl).takeInterrupt _ _ _)
  · exact .next ((h t rfl).freeStatusInterrupt _ _)

/-! ### Failure handling -/

/-- Failure handling ends the transaction at its handler (R176), whatever it was. -/
theorem State.handleFailure_follows {u : State} (hmem : u.mem.wf) (htfhar : u.sprs.tfhar = s.sprs.tfhar) :
    yields (Follows L s) u.handleFailure := by
  rcases State.handleFailure_cases (rfl : u.handleFailure = _) with ⟨-, e⟩ | ⟨c, -, e⟩ <;> rw [e]
  · exact .fault _
  · exact .next (.of_ended hmem (msrTs_putTs _ _) rfl (wordAlign_wordAlign _) htfhar)

theorem State.handlePending_follows {u : State} (hmem : u.mem.wf) (htfhar : u.sprs.tfhar = s.sprs.tfhar) :
    yields (Follows L s) u.handlePending := by
  refine State.handleFailure_follows ?_ ?_
  · exact u.recordPending_mem ▸ hmem
  · show u.recordPending.sprs.tfhar = _
    rw [u.recordPending_sprs]
    exact htfhar

theorem State.failNotExecuted_follows {u : State} (hmem : u.mem.wf) (htfhar : u.sprs.tfhar = s.sprs.tfhar) (cause : Word32) :
    yields (Follows L s) (u.failNotExecuted cause) := by
  refine State.handleFailure_follows ?_ ?_
  · rw [State.recordFailure_mem]
    exact hmem
  · rw [State.recordFailure_sprs]
    exact htfhar

theorem State.failDisallowed_follows {u : State} (h : Steady s u) (hs : s.Inv) : yields (Follows L s) u.failDisallowed :=
  State.failNotExecuted_follows (h.inv hs).memory h.tfhar _

/-! ### Guards -/

section
variable (hs : s.Inv)
include hs

theorem State.guardTm_follows {body : Result} (hb : s.availability = .available → yields (Follows L s) body) :
    yields (Follows L s) (s.guardTm body) := by
  rcases State.guardTm_cases (rfl : s.guardTm body = _) with ⟨ha, e⟩ | ⟨-, e⟩ | ⟨-, e⟩ | ⟨-, e⟩ <;> rw [e]
  · exact hb ha
  · exact .next ((Follows.refl hs).freeStatusInterrupt _ _)
  · exact .next ((Follows.refl hs).freeStatusInterrupt _ _)
  · exact .refused _

theorem State.guardLevel_follows (level : PrivLevel) {body : Result} (hb : yields (Follows L s) body) :
    yields (Follows L s) (s.guardLevel level body) := by
  rcases State.guardLevel_cases (rfl : s.guardLevel level body = _) with ⟨-, e⟩ | ⟨-, e⟩ <;> rw [e]
  · exact hb
  · exact .next ((Follows.refl hs).takeInterrupt _ _ _)

theorem State.tmBadThing_follows : yields (Follows L s) (.next s.tmBadThing) := .next ((Follows.refl hs).takeInterrupt _ _ _)

theorem State.unlessTransactional_follows {body : Result} (hb : s.ts ≠ tsT → yields (Follows L s) body) :
    yields (Follows L s) (s.unlessTransactional body) := by
  unfold State.unlessTransactional
  split
  · exact State.failDisallowed_follows (.refl s) hs
  · exact hb ‹_›

end

/-! ### tbegin. and tend. -/

theorem Config.one_le_tlMax : 1 ≤ Config.tlMax := by
  have h : 2 ^ 4 ≤ 2 ^ Config.t := Nat.pow_le_pow_right (by decide) (Nat.le_add_right 4 _)
  unfold Config.tlMax
  omega

/-- TLmax fits TEXASR.TL (R38). -/
theorem Config.tlMax_lt : Config.tlMax < 2 ^ 12 := by
  have ht : Config.t ≤ 12 := by
    have := Config.tAboveFour.isLt
    unfold Config.t
    omega
  have h : 2 ^ Config.t ≤ 2 ^ 12 := Nat.pow_le_pow_right (by decide) ht
  have hpos := Nat.two_pow_pos Config.t
  unfold Config.tlMax
  omega

/-- A level of at most TLmax is all in the live bits of TEXASR.TL (R38). -/
theorem liveTl_of_le {x : Word} (h : (texasrTl x).toNat ≤ Config.tlMax) : liveTl x = (texasrTl x).toNat := by
  have hpos := Nat.two_pow_pos Config.t
  unfold Config.tlMax at h
  exact Nat.mod_eq_of_lt (by omega)

/-- An outer transaction: no failure recorded, level 1 (R202). -/
theorem outerTexasr_fs (rot : Bool) : texasrFs (outerTexasr rot) = false := by cases rot <;> decide

theorem outerTexasr_tl (rot : Bool) : texasrTl (outerTexasr rot) = 1 := by cases rot <;> decide

/-- An outer transaction begins only with TM = 1, on a thread that executes (R202). -/
theorem State.Inv.beginOuter (hs : s.Inv) (hTM : msrTm s.msr = true) (hrun : s.power = .running) (rot : Bool) :
    (s.beginOuter rot).Inv := by
  have hts : (s.beginOuter rot).ts = tsT := by cases rot <;> exact msrTs_putTs _ _
  have htexasr : (s.beginOuter rot).sprs.texasr = outerTexasr rot := by cases rot <;> rfl
  have htm : (s.beginOuter rot).tm = { Facility.idle with checkpoint := some s.registersNow } := by cases rot <;> rfl
  have htl : levelInRange (outerTexasr rot) := by
    rw [levelInRange, outerTexasr_tl]
    exact ⟨Nat.le_refl 1, Config.one_le_tlMax⟩
  exact {
    memory := by cases rot <;> exact hs.memory
    tsLegal := by rw [hts]; decide
    tmEnabled := fun _ => by cases rot <;> exact (msrTm_putTs _ _).trans hTM
    idle := fun h => absurd (hts.symm.trans h) (by decide)
    checkpoint := fun _ => by rw [htm]; rfl
    niaAligned := by cases rot <;> exact hs.niaAligned
    txData := by rw [htm]; exact ⟨List.Pairwise.nil, nofun⟩
    owed := fun h => by rw [htm] at h; cases h
    doomed := fun _ h => by rw [State.fs, htexasr, outerTexasr_fs] at h; cases h
    discarded := fun h => by rw [htm] at h; cases h
    level := fun _ _ => by rw [htexasr]; exact htl
    asleep := fun h => absurd (by cases rot <;> exact hrun) h }

/-- A nested transaction below the maximum level, or the end of one above level 1, changes the level and perhaps ROT (R202, R203). -/
theorem Steady.of_level {u : State} (hN : s.ts ≠ tsN) (hmem : u.mem = s.mem) (hmsr : u.msr = s.msr) (hnia : u.nia = s.nia)
    (hpower : u.power = s.power) (htfhar : u.sprs.tfhar = s.sprs.tfhar) (htm : u.tm = s.tm) (hfs : u.fs = s.fs)
    (htl : levelInRange s.sprs.texasr → levelInRange u.sprs.texasr) : Steady s u :=
  .of_goesOn hN hmem hmsr hnia hpower htfhar (htm ▸ .of_same_data rfl rfl id rfl rfl) htl (.inl hfs)

theorem texasrFs_putBit_rot (x : Word) (b : Bool) : texasrFs (putBit x 38 b) = texasrFs x :=
  (bit_putBit x 38 36 b (by decide) (by decide)).trans (if_neg (by decide))

theorem Steady.beginNested (hT : s.ts = tsT) (hmax : liveTl s.sprs.texasr ≠ Config.tlMax) (rot : Bool) : Steady s (s.beginNested rot) := by
  have hN : s.ts ≠ tsN := by rw [hT]; decide
  have hlevel (h : levelInRange s.sprs.texasr) : levelInRange (putTl s.sprs.texasr (texasrTl s.sprs.texasr + 1)) := by
    obtain ⟨hlow, hhigh⟩ := h
    rw [liveTl_of_le hhigh] at hmax
    have hfits := Config.tlMax_lt
    have hone : (1 : BitVec 12).toNat = 1 := rfl
    rw [levelInRange, texasrTl_putTl, BitVec.toNat_add]
    omega
  unfold State.beginNested
  dsimp only
  split
  · refine .of_level hN rfl rfl rfl rfl rfl rfl ((texasrFs_putBit_rot _ _).trans (texasrFs_putTl _ _)) fun h => ?_
    have h := hlevel h
    rw [levelInRange, ← texasrTl_putBit _ 38 false (by decide)] at h
    exact h
  · exact .of_level hN rfl rfl rfl rfl rfl rfl (texasrFs_putTl _ _) hlevel

theorem State.beginTransaction_follows (hs : s.Inv) (hrun : s.power = .running) (hTM : msrTm s.msr = true) (hL : L) (rot : Bool) :
    yields (Follows L s) (s.beginTransaction rot) := by
  have hcr := Steady.setCr0State s
  unfold State.beginTransaction
  dsimp only
  split
  · rename_i hN
    have hinv := (hcr.inv hs).beginOuter hTM hrun rot
    exact .next (Follows.complete ⟨hinv, fun h => absurd hN h, fun _ => .inr hL⟩)
  · split
    · rename_i hT
      split
      · exact State.failNotExecuted_follows (hcr.inv hs).memory hcr.tfhar _
      · rename_i hmax
        exact .next ((hcr.trans (Steady.beginNested (s := s.setCr0State) hT hmax rot)).follows hs).complete
    · exact .next (hcr.follows hs).complete

theorem Steady.endNested (hT : s.ts = tsT) (hone : texasrTl s.sprs.texasr ≠ 1) (hs : s.Inv) : Steady s s.endNested := by
  have hN : s.ts ≠ tsN := by rw [hT]; decide
  have howed : s.tm.handleOnResume = false := Bool.eq_false_iff.2 fun ho => absurd (hT.symm.trans (hs.owed ho).1) (by decide)
  obtain ⟨hlow, hhigh⟩ := hs.level hN howed
  have hpos : texasrTl s.sprs.texasr ≠ 0 := fun h => by rw [h] at hlow; exact absurd hlow (by decide)
  have habove : (texasrTl s.sprs.texasr).toNat ≠ 1 := fun h => hone (BitVec.eq_of_toNat_eq h)
  unfold State.endNested
  dsimp only
  rw [if_neg hpos]
  refine .of_level hN rfl rfl rfl rfl rfl rfl (texasrFs_putTl _ _) fun _ => ?_
  have htl : (texasrTl s.sprs.texasr - 1).toNat = (texasrTl s.sprs.texasr).toNat - 1 :=
    BitVec.toNat_sub_of_le hlow
  show levelInRange (putTl _ _)
  rw [levelInRange, texasrTl_putTl, htl]
  omega

theorem State.tryCommit_follows (hs : s.Inv) : yields (Follows L s) s.tryCommit := by
  unfold State.tryCommit
  dsimp only
  split
  · refine State.handleFailure_follows ?_ ?_
    · show (s.settle _).recordPending.mem.wf
      rw [State.recordPending_mem]
      exact hs.memory
    · show (s.settle _).recordPending.sprs.tfhar = _
      rw [State.recordPending_sprs]
      rfl
  · have hmem : s.commit.mem.wf := Memory.wf_writeCells hs.memory hs.txData.2
    exact .next (Follows.complete (.of_ended hmem (msrTs_putTs _ _) rfl hs.niaAligned rfl))

theorem State.endTransactionLevel_follows (hs : s.Inv) (a : Bool) : yields (Follows L s) (s.endTransactionLevel a) := by
  have hcr := Steady.setCr0State s
  unfold State.endTransactionLevel
  dsimp only
  split
  · exact State.tmBadThing_follows hs
  · split
    · rename_i hT
      split
      · exact fun t h => (State.tryCommit_follows (hcr.inv hs) t h).of_steady hcr
      · rename_i hnested
        have hone : texasrTl s.sprs.texasr ≠ 1 := fun h => hnested (by simp [h])
        exact .next ((hcr.trans (Steady.endNested (s := s.setCr0State) hT hone (hcr.inv hs))).follows hs).complete
    · exact .next (hcr.follows hs).complete

/-! ### The aborts, tsr. and tcheck -/

/-- Handling comes to be owed only in Suspended state, by a transaction whose failure is recorded and whose updates are discarded (R180). -/
theorem State.Inv.owe {u : State} (hu : u.Inv) (hS : u.ts = tsS) (hfs : u.fs = true) (hdisc : u.tm.updatesDiscarded = true) :
    State.Inv { u with tm := { u.tm with handleOnResume := true } } :=
  have hN : u.ts ≠ tsN := by rw [hS]; decide
  { memory := hu.memory, tsLegal := hu.tsLegal, tmEnabled := hu.tmEnabled, idle := fun h => absurd h hN, checkpoint := hu.checkpoint
    niaAligned := hu.niaAligned, txData := hu.txData, owed := fun _ => ⟨hS, hu.doomed hN hfs, hfs, hdisc⟩, doomed := hu.doomed
    discarded := hu.discarded, level := fun _ h => (by cases h), asleep := hu.asleep }

theorem State.abort_follows (hs : s.Inv) (hN : s.ts ≠ tsN) (cause : Word32) : yields (Follows L s) (s.abort cause) := by
  unfold State.abort
  dsimp only
  split
  · refine State.handleFailure_follows ?_ ?_
    · rw [State.recordFailure_mem]; exact hs.memory
    · rw [State.recordFailure_sprs]
  · rename_i hT
    have hS := ts_eq_suspended hN hT hs.tsLegal
    have hsteady := (Steady.discardUpdates hN).trans (Steady.recordFailure (s := s.discardUpdates) hN cause (some s.nia))
    have hdisc : (s.discardUpdates.recordFailure cause (some s.nia)).tm.updatesDiscarded = true := by
      rw [State.recordFailure_tm]
      split <;> rfl
    have hinv := (hsteady.inv hs).owe (hsteady.ts.trans hS) (State.recordFailure_fs _ _ _) hdisc
    exact .next (Follows.complete (.of_active hN hinv hsteady.tfhar))

theorem State.abortIf_follows (hs : s.Inv) (condition : Bool) (cause : Word32) : yields (Follows L s) (s.abortIf condition cause) := by
  have hcr := Steady.setCr0State s
  unfold State.abortIf
  dsimp only
  split
  · rename_i h
    have hN : s.setCr0State.ts ≠ tsN := State.ts_ne_of_active (Bool.and_eq_true_iff.1 h).2
    exact fun t ht => (State.abort_follows (hcr.inv hs) hN cause t ht).of_steady hcr
  · exact .next (hcr.follows hs).complete

/-- A transaction is suspended, or, with TM = 1 and no handling owed, resumed (R220). -/
theorem State.Inv.setTs (hs : s.Inv) (hN : s.ts ≠ tsN) {ts : BitVec 2}
    (hts : ts = tsS ∨ ts = tsT ∧ msrTm s.msr = true ∧ s.tm.handleOnResume = false) : (s.setTs ts).Inv := by
  have hnew := s.setTs_ts ts
  refine hs.of_same_transaction hs.memory rfl rfl rfl hs.niaAligned ?_ ?_ ?_ <;> rw [hnew]
  · exact iff_of_false (by rcases hts with rfl | ⟨rfl, -⟩ <;> decide) hN
  · rcases hts with rfl | ⟨rfl, -⟩ <;> decide
  · rintro rfl
    obtain ⟨-, hTM, howed⟩ := hts.resolve_left (by decide)
    exact ⟨(msrTm_putTs _ _).trans hTM, howed⟩

/-- A resume needs TM = 1; where handling is owed it runs, so that a transaction in Transactional state owes none (R180, R220). -/
theorem State.suspendOrResume_follows (hs : s.Inv) (hTM : msrTm s.msr = true) (resume : Bool) :
    yields (Follows L s) (s.suspendOrResume resume) := by
  have hcr := Steady.setCr0State s
  have hinv := hcr.inv hs
  unfold State.suspendOrResume
  dsimp only
  split
  · split
    · rename_i hS
      have hN : s.ts ≠ tsN := by rw [hS]; decide
      unfold State.afterResume
      split
      · exact State.handleFailure_follows hs.memory rfl
      · rename_i howed
        have hresumed : (s.setCr0State.setTs tsT).Inv := hinv.setTs hN (.inr ⟨rfl, hTM, Bool.eq_false_iff.2 howed⟩)
        exact .next ((Follows.complete (.of_active hN hresumed rfl)).steady (.reservation _ _))
    · exact .next (hcr.follows hs).complete
  · split
    · rename_i hT
      have hN : s.ts ≠ tsN := by rw [hT]; decide
      exact .next (Follows.complete (.of_active hN (hinv.setTs hN (.inl rfl)) rfl))
    · exact .next (hcr.follows hs).complete

theorem State.check_follows (hs : s.Inv) (bf : BitVec 3) : Follows L s (s.check bf) := by
  unfold State.check
  split
  · exact Follows.complete (Steady.follows (.of_tm id rfl rfl rfl rfl rfl rfl) hs)
  · have hsettle := Steady.settle s (fun l => l.on s.tm.awaited)
    exact Follows.complete ((hsettle.follows hs).steady (.of_tm id rfl rfl rfl rfl rfl rfl))

/-! ### treclaim. and trechkpt. -/

theorem State.reclaim_follows (hs : s.Inv) (ra : RegNum) : yields (Follows L s) (s.reclaim ra) := by
  unfold State.reclaim
  split
  · exact .fault _
  · refine .next (Follows.complete (.of_ended ?_ (msrTs_putTs _ _) rfl ?_ ?_))
    · show (s.setCr0State.recordFailure _ _).mem.wf
      rw [State.recordFailure_mem]; exact hs.memory
    · show wordAlign (s.setCr0State.recordFailure _ _).nia = (s.setCr0State.recordFailure _ _).nia
      rw [State.recordFailure_nia]; exact hs.niaAligned
    · show (s.setCr0State.recordFailure _ _).sprs.tfhar = _
      rw [State.recordFailure_sprs]; rfl

/-- trechkpt. builds a suspended transaction, doomed and with handling owed, from a recorded failure (R232, D16). -/
theorem State.Inv.recheckpoint (hs : s.Inv) (hrun : s.power = .running) (hfs : s.fs = true) : s.recheckpoint.Inv :=
  have hts : s.recheckpoint.ts = tsS := msrTs_putTs _ _
  { memory := hs.memory
    tsLegal := by rw [hts]; decide
    tmEnabled := fun h => absurd (hts.symm.trans h) (by decide)
    idle := fun h => absurd (hts.symm.trans h) (by decide)
    checkpoint := fun _ => rfl
    niaAligned := wordAlign_add_four hs.niaAligned
    txData := ⟨List.Pairwise.nil, nofun⟩
    owed := fun _ => ⟨hts, rfl, hfs, rfl⟩
    doomed := fun _ _ => rfl
    discarded := fun _ => rfl
    level := fun _ h => (by cases h)
    asleep := fun h => absurd hrun h }

/-! ### Special purpose registers -/

theorem State.undefinedSpr_follows (hs : s.Inv) (n : Nat) : Follows L s (s.undefinedSpr n) := by
  have hself : Follows L s s := .refl hs
  unfold State.undefinedSpr
  split
  · split
    · exact hself.takeInterrupt _ _ _
    · exact hself.complete
  · split
    · exact hself.emulationAssistance
    · exact hself.complete

theorem execMfspr_follows (hs : s.Inv) (rt : RegNum) (n : Nat) : yields (Follows L s) (execMfspr rt n s) := by
  have hread (reg : Spr) : yields (Follows L s) (.next (s.setGpr rt (s.mfsprValue reg)).complete) :=
    .next ((Steady.setGpr s rt _).follows hs).complete
  unfold execMfspr
  split
  · exact .next (State.undefinedSpr_follows hs n)
  · refine State.guardLevel_follows hs _ ?_
    split
    · exact State.guardTm_follows hs fun _ => hread _
    · exact hread _

/-- In Non-transactional state any special purpose register may be written. -/
theorem State.writeSpr_follows (hs : s.Inv) (hN : s.ts = tsN) (v : Word) (reg : Spr) : Follows L s (s.writeSpr v reg) := by
  rw [s.writeSpr_frame v reg]
  exact ⟨.of_nontransactional hs.memory hN (hs.idle hN) hs.niaAligned, fun h => absurd hN h, fun _ => .inl hN⟩

theorem State.moveToSpr_follows (hs : s.Inv) (reg : Spr) (v : Word) : yields (Follows L s) (s.moveToSpr reg v) := by
  unfold State.moveToSpr
  split
  · refine State.guardTm_follows hs fun _ => ?_
    split
    · exact .next (State.writeSpr_follows hs ‹_› v reg).complete
    · exact State.tmBadThing_follows hs
  · rename_i htm
    split
    · exact State.failDisallowed_follows (.refl s) hs
    · exact .next ((Steady.writeSpr s v (Bool.eq_false_iff.2 htm)).follows hs).complete

theorem execMtspr_follows (hs : s.Inv) (n : Nat) (rs : RegNum) : yields (Follows L s) (execMtspr n rs s) := by
  unfold execMtspr
  split
  · unfold State.moveToUndefinedSpr
    split
    · exact State.failDisallowed_follows (.refl s) hs
    · exact .next (State.undefinedSpr_follows hs n)
  · exact State.guardLevel_follows hs _ (State.moveToSpr_follows hs _ _)

/-! ### MSR linkage -/

/-- Bits 29 to 31 decide `TS || TM` (R10, R30). -/
theorem msrTsTm_eq_of_bits {m m' : Word} (h : ∀ k, 29 ≤ k → k ≤ 31 → bit m k = bit m' k) : msrTsTm m = msrTsTm m' := by
  apply BitVec.eq_of_getLsbD_eq
  intro i hi
  have hb := h (31 - i) (by omega) (by omega)
  rw [bit_eq_getLsbD _ _ (by omega), bit_eq_getLsbD _ _ (by omega), show 64 - 1 - (31 - i) = 32 + i by omega] at hb
  simp only [msrTsTm, BitVec.getLsbD_extractLsb', hi, hb]

/-- A mask without bits 29 to 31 leaves `TS || TM`. -/
theorem msrTsTm_select {mask : Word} (h : msrTsTm mask = 0) (new old : Word) : msrTsTm (select mask new old) = msrTsTm old := by
  refine msrTsTm_eq_of_bits fun k hlow hhigh => ?_
  have hmask : bit mask k = false := by
    have hb : (msrTsTm mask).getLsbD (31 - k) = false := by rw [h]; exact BitVec.getLsbD_zero
    rw [msrTsTm, BitVec.getLsbD_extractLsb', decide_eq_true (by omega), Bool.true_and] at hb
    rw [bit_eq_getLsbD _ _ (by omega), show 64 - 1 - k = 32 + (31 - k) by omega]
    exact hb
  rw [bit_select _ _ _ _ (by omega), hmask, if_neg Bool.false_ne_true]

theorem msrTsTm_loadMsrBits {mask : Word} (h : msrTsTm mask = 0) (old image : Word) :
    msrTsTm (loadMsrBits mask old image) = msrTsTm old := by
  unfold loadMsrBits
  rw [msrTsTm_putBit _ _ _ (by decide), msrTsTm_putBit _ _ _ (by decide), msrTsTm_putBit _ _ _ (by decide), msrTsTm_select h]

theorem msrTsTm_rfidMsr (msr srr1 : Word) : msrTsTm (rfidMsr msr srr1) = msrTsTm msr := by
  unfold rfidMsr
  rw [msrTsTm_putBit _ _ _ (by decide), msrTsTm_putBit _ _ _ (by decide), msrTsTm_loadMsrBits (by decide)]

theorem wordAlign_returnAddress (m a : Word) : wordAlign (returnAddress m a) = returnAddress m a := by
  unfold returnAddress
  split
  · exact wordAlign_wordAlign a
  · exact wordAlign_low32 a

/-- Table 2 from Non-transactional and Suspended state: Non-transactional state stays and is not entered, and Transactional state is entered with
TM = 1 (R250). -/
theorem tmTransition_write : ∀ cur inp v : BitVec 3, cur.extractLsb' 1 2 ≠ tsT → cur.extractLsb' 1 2 ≠ 0b11 →
    tmTransition cur inp = .write v →
    (v.extractLsb' 1 2 = tsN ↔ cur.extractLsb' 1 2 = tsN) ∧ v.extractLsb' 1 2 ≠ 0b11 ∧
      (v.extractLsb' 1 2 = tsT → v.getLsbD 0 = true) := by
  decide

/-- The same, said of the MSR that is loaded. -/
theorem State.Inv.loadedTs (hs : s.Inv) (hT : s.ts ≠ tsT) {image loaded : Word} (hloaded : msrTsTm loaded = msrTsTm s.msr)
    (h : tmTransition (msrTsTm s.msr) (msrTsTm image) ≠ .badThing) :
    let m := (tmTransition (msrTsTm s.msr) (msrTsTm image)).applyTo loaded
    (msrTs m = tsN ↔ s.ts = tsN) ∧ msrTs m ≠ 0b11 ∧ (msrTs m = tsT → msrTm m = true) := by
  have hlegal := hs.tsLegal
  rw [State.ts, msrTs_eq] at hT hlegal ⊢
  cases htr : tmTransition (msrTsTm s.msr) (msrTsTm image) with
  | badThing => exact absurd htr h
  | keep =>
    dsimp only [Transition.applyTo]
    rw [msrTs_eq, hloaded]
    exact ⟨Iff.rfl, hlegal, fun e => absurd e hT⟩
  | write v =>
    dsimp only [Transition.applyTo]
    rw [msrTs_putTsTm, msrTm_eq, msrTsTm_putTsTm]
    exact tmTransition_write _ _ v hT hlegal htr

/-- The thread with the MSR that a return has loaded: the invariant, where a transaction that is resumed owes no handling. -/
theorem State.Inv.loadMsr (hs : s.Inv) {u : State} (hmem : u.mem = s.mem) (htm : u.tm = s.tm) (hsprs : u.sprs = s.sprs)
    (hpower : u.power = s.power) (hnia : wordAlign u.nia = u.nia) (hN : u.ts = tsN ↔ s.ts = tsN) (hlegal : u.ts ≠ 0b11)
    (hTM : u.ts = tsT → msrTm u.msr = true) (howed : u.ts = tsT → s.tm.handleOnResume = false) : u.Inv :=
  hs.of_same_transaction (hmem ▸ hs.memory) htm (by rw [hsprs]) hpower hnia hN hlegal fun h => ⟨hTM h, howed h⟩

/-- What rfid, hrfid and mtmsrd L=0 leave: an interrupt, failure handling that was owed, or the next instruction under the new MSR. -/
theorem State.loadMsr_follows (hs : s.Inv) (hT : s.ts ≠ tsT) {image loaded : Word} (hloaded : msrTsTm loaded = msrTsTm s.msr)
    {next : Word → Word} (hnext : ∀ m, wordAlign (next m) = next m) (traced : Bool) :
    yields (Follows L s) (s.loadMsr image loaded next traced) := by
  have hcases := State.loadMsr_cases (rfl : s.loadMsr image loaded next traced = _)
  extract_lets transition newMsr resumes u at hcases
  rcases hcases with ⟨-, e⟩ | ⟨htr, -, hcases⟩
  · rw [e]
    exact State.tmBadThing_follows hs
  obtain ⟨hN, hlegal, hTM⟩ : (u.ts = tsN ↔ s.ts = tsN) ∧ u.ts ≠ 0b11 ∧ (u.ts = tsT → msrTm u.msr = true) :=
    hs.loadedTs hT hloaded htr
  have hnia : wordAlign u.nia = u.nia := by
    dsimp only [u]
    split
    · exact wordAlign_wordAlign _
    · exact hnext _
  have hresume : resumes = (s.ts == tsS && u.ts == tsT) := rfl
  have hmem : u.mem = s.mem := rfl
  have htm : u.tm = s.tm := rfl
  have hsprs : u.sprs = s.sprs := rfl
  have hpower : u.power = s.power := rfl
  clear_value u
  rcases hcases with ⟨-, e⟩ | ⟨-, -, e⟩ | ⟨-, hstays, e⟩ <;> rw [e]
  · refine .next ⟨hs.takeInterrupt hmem htm hsprs hpower hN hlegal _ _ _, fun _ => ?_, fun h => .inl ?_⟩
    · rw [State.fpAtNext, State.takeInterrupt_tfhar, hsprs]
    · rw [State.fpAtNext, State.takeInterrupt_ts, interruptTs_eq_tsN_iff]
      exact hN.2 h
  · unfold State.afterResume
    split
    · exact State.handleFailure_follows (hmem ▸ hs.memory) (by rw [hsprs])
    · rename_i howed
      rw [htm] at howed
      exact .next ⟨hs.loadMsr hmem htm hsprs hpower hnia hN hlegal hTM fun _ => Bool.eq_false_iff.2 howed, fun _ => by rw [hsprs],
        fun h => .inl (hN.2 h)⟩
  · refine .next ⟨hs.loadMsr hmem htm hsprs hpower hnia hN hlegal hTM fun huT => ?_, fun _ => by rw [hsprs], fun h => .inl (hN.2 h)⟩
    have hactive : s.ts ≠ tsN := fun h => absurd ((hN.2 h).symm.trans huT) (by decide)
    rw [hresume, ts_eq_suspended hactive hT hs.tsLegal, huT] at hstays
    cases hstays

theorem execMtmsrd_follows (hs : s.Inv) (rs : RegNum) (l : Bool) : yields (Follows L s) (execMtmsrd rs l s) := by
  refine State.guardLevel_follows hs _ (State.unlessTransactional_follows hs fun hT => ?_)
  have hnia := wordAlign_add_four hs.niaAligned
  split
  · have htsTm : msrTsTm (select mtmsrdLMask (s.gpr rs) s.msr) = msrTsTm s.msr := msrTsTm_select (by decide) _ _
    have hts : msrTs (select mtmsrdLMask (s.gpr rs) s.msr) = s.ts := by rw [msrTs_eq, htsTm, ← msrTs_eq]; rfl
    refine .next ⟨hs.loadMsr rfl rfl rfl rfl hnia ?_ ?_ ?_ ?_, fun _ => rfl, fun h => .inl (hts.trans h)⟩
    · exact (iff_of_eq (congrArg (· = tsN) hts))
    · exact fun h => hs.tsLegal (hts.symm.trans h)
    · exact fun h => absurd (hts.symm.trans h) hT
    · exact fun h => absurd (hts.symm.trans h) hT
  · exact State.loadMsr_follows hs hT (msrTsTm_loadMsrBits (by decide) _ _) (fun _ => hnia) _

/-! ### The instructions of the table -/

/-- A power-saving level is entered in Non-transactional state only (R270). -/
theorem State.enterPowerSaving_follows (hs : s.Inv) (level : PowerLevel) : yields (Follows L s) (s.enterPowerSaving level) := by
  refine State.guardLevel_follows hs _ ?_
  split
  · exact State.failDisallowed_follows (.refl s) hs
  · rename_i hT
    split
    · exact State.tmBadThing_follows hs
    · rename_i hS
      have hN : s.ts = tsN := by
        by_contra hN
        exact hS (ts_eq_suspended hN hT hs.tsLegal)
      exact .next ⟨.of_nontransactional hs.memory hN (hs.idle hN) (wordAlign_add_four hs.niaAligned), fun h => absurd hN h, fun _ => .inl hN⟩

/-- The instructions that leave Non-transactional state (R157, R259). -/
def Instr.leavesNontransactional (i : Instr) : Prop := (∃ a r, i = .tbegin a r) ∨ i = .trechkpt

/-- TM = 1 where the facility is available (R201). -/
theorem State.msrTm_of_available (h : s.availability = .available) : msrTm s.msr = true :=
  ((State.availability_available_iff s).1 h).2.2

theorem exec_follows (hs : s.Inv) (hrun : s.power = .running) (i : Instr) :
    yields (Follows (Instr.leavesNontransactional i) s) (exec i s) := by
  cases i with
  | tbegin a r =>
    exact State.guardTm_follows hs fun h =>
      State.beginTransaction_follows hs hrun (State.msrTm_of_available h) (.inl ⟨a, r, rfl⟩) r
  | tend a => exact State.guardTm_follows hs fun _ => State.endTransactionLevel_follows hs a
  | tabort | tabortwc | tabortwci | tabortdc | tabortdci =>
    exact State.guardTm_follows hs fun _ => State.abortIf_follows hs _ _
  | tsr l => exact State.guardTm_follows hs fun h => State.suspendOrResume_follows hs (State.msrTm_of_available h) l
  | tcheck bf => exact State.guardTm_follows hs fun _ => .next (State.check_follows hs bf)
  | treclaim ra =>
    refine State.guardLevel_follows hs _ (State.guardTm_follows hs fun _ => ?_)
    split
    · exact State.tmBadThing_follows hs
    · exact State.reclaim_follows hs ra
  | trechkpt =>
    refine State.guardLevel_follows hs _ (State.guardTm_follows hs fun _ => ?_)
    split
    · exact State.tmBadThing_follows hs
    · rename_i h
      simp only [ne_eq, Bool.or_eq_true, decide_eq_true_eq, Bool.not_eq_true', not_or, not_not, Bool.not_eq_false] at h
      obtain ⟨hN, hfs⟩ := h
      exact .next ⟨hs.recheckpoint hrun hfs, fun h => absurd hN h, fun _ => .inr (.inr rfl)⟩
  | mfspr rt spr => exact execMfspr_follows hs rt spr
  | mtspr spr rs => exact execMtspr_follows hs spr rs
  | mtmsrd rs l => exact execMtmsrd_follows hs rs l
  | rfid =>
    exact State.guardLevel_follows hs _ (State.unlessTransactional_follows hs fun hT =>
      State.loadMsr_follows hs hT (msrTsTm_rfidMsr _ _) (fun _ => wordAlign_returnAddress _ _) _)
  | hrfid =>
    exact State.guardLevel_follows hs _ (State.unlessTransactional_follows hs fun hT =>
      State.loadMsr_follows hs hT (msrTsTm_loadMsrBits (by decide) _ _) (fun _ => wordAlign_returnAddress _ _) _)
  | doze | nap | sleep | rvwinkle => exact State.enterPowerSaving_follows hs _

end Sys2Proof.Machine
end

section
/-!
PROOFS. Base instructions and the step as a whole: the statements on the invariant, on TFHAR and on what leaves Non-transactional state
(40_tm_states_failure.md rules R150, R157, R158, R184, R185).
-/

namespace Sys2Proof.Machine

variable {L : Prop} {s : State}

/-! ### Data accesses -/

theorem State.handlePending_follows_of_steady {u : State} (h : Steady s u) (hs : s.Inv) : yields (Follows L s) u.handlePending :=
  State.handlePending_follows (h.inv hs).memory h.tfhar

theorem State.stopAccess_follows {u : State} (h : Steady s u) (hs : s.Inv) (st : Bool) (addrs : List Nat) {cells : List Host.Cell}
    (hcells : ∀ c ∈ cells, c.1 < 2 ^ 64) (stop : AccessStop) : yields (Follows L s) (u.stopAccess st addrs cells stop) := by
  rcases State.stopAccess_cases (rfl : u.stopAccess st addrs cells stop = _) with ⟨e, before, -, hr⟩ | ⟨-, hr⟩ | ⟨-, hr⟩ <;> rw [hr]
  · have hothers := Steady.accessOthers (u.mayTouchPages addrs (st && !e.isProtection)) st (addrs.eraseIdx before)
      (cells := cells.eraseIdx before) fun c hc => hcells c (List.mem_of_mem_eraseIdx hc)
    exact .next ((((h.trans (.mayTouchPages _ _ _)).trans hothers).follows hs).dataInterrupt e)
  · exact State.failDisallowed_follows (h.trans (.mayTouchPages _ _ _)) hs
  · exact State.handlePending_follows_of_steady (h.trans (.mayTouchPages _ _ _)) hs

/-- A data access: what stops it, or what is performed after a steady change. -/
theorem State.dataAccess_follows (hs : s.Inv) (st : Bool) (addrs : List Nat) {cells : List Host.Cell}
    (hcells : ∀ c ∈ cells, c.1 < 2 ^ 64) {perform : State → Result} (hp : ∀ u, Steady s u → yields (Follows L s) (perform u)) :
    yields (Follows L s) (s.dataAccess st addrs cells perform) := by
  unfold State.dataAccess
  dsimp only
  split
  · exact hp _ (((Steady.ticks s 2).trans (.recordAccess _ _ _)).trans (.log _ _))
  · exact State.stopAccess_follows (.ticks s 2) hs _ _ hcells _

theorem State.loadTo_follows (hs : s.Inv) (ea : Word) (size : Nat) (parts : List LoadPart) (updates : List RegWrite) :
    yields (Follows L s) (s.loadTo ea size parts updates) := by
  unfold State.loadTo
  refine State.dataAccess_follows hs _ _ (List.forall_mem_nil _) fun u hu => .next (Follows.complete ?_)
  have hnoted := (hu.trans (.detectOverwritten u (s.operandAddresses ea size))).trans (.noteLoad _ (s.operandAddresses ea size))
  exact (((hnoted.trans (.ticks _ _)).trans (.place _ _ _)).trans (.writeRegs _ _)).follows hs

theorem State.storeAt_follows (hs : s.Inv) {cells : List Host.Cell} (hcells : ∀ c ∈ cells, c.1 < 2 ^ 64) {after : State → State}
    (ha : ∀ u, Steady u (after u)) : yields (Follows L s) (s.storeAt cells after) :=
  State.dataAccess_follows hs _ _ hcells fun u hu =>
    .next (Follows.complete (((hu.trans (.storeCells u hcells)).trans (ha _)).follows hs))

theorem AccessShape.cells_lt (s : State) (a : AccessShape) : ∀ c ∈ a.cells s, c.1 < 2 ^ 64 := by
  cases a with
  | load ea size => exact List.forall_mem_nil _
  | store ea parts => exact s.storedCells_lt ea parts
  | dcbz ea => exact s.dcbzCells_lt ea

/-! ### The base instructions -/

section
variable (hs : s.Inv)
include hs

theorem State.mayBeDisallowed_follows (addrs : List Nat) {body : State → Result} (hb : yields (Follows L s) (body s.tick)) :
    yields (Follows L s) (s.mayBeDisallowed addrs body) := by
  unfold State.mayBeDisallowed
  split
  · exact State.failDisallowed_follows ((Steady.tick s).trans (.mayTouchPages _ _ _)) hs
  · exact hb

theorem State.neverInT_follows (addrs : List Nat) {body : Result} (hb : yields (Follows L s) body) :
    yields (Follows L s) (s.neverInT addrs body) := by
  unfold State.neverInT
  split
  · exact State.failDisallowed_follows (.mayTouchPages s _ _) hs
  · exact hb

theorem State.disallowedInT_follows {body : State} (hb : Follows L s body) : yields (Follows L s) (s.disallowedInT body) := by
  unfold State.disallowedInT
  split
  · exact State.failDisallowed_follows (.refl s) hs
  · exact .next hb

theorem State.branch_follows (taken link decrement : Bool) (target : Word) : Follows L s (s.branch taken link decrement target) := by
  refine Follows.jump (u := { s with regs := (s.branch taken link decrement target).regs })
    ((Follows.refl hs).steady (.of_tm id rfl rfl rfl rfl rfl rfl)) ?_ true
  split
  · exact wordAlign_wordAlign _
  · exact wordAlign_add_four hs.niaAligned

theorem State.loadReserve_follows (rt : RegNum) (ea : Word) (size : AccessSize) :
    yields (Follows L s) (execBaseInstr (.loadReserve rt ea size) s) := by
  have hload : yields (Follows L s) (s.loadGpr rt ea size) := State.loadTo_follows hs ea _ _ _
  unfold execBaseInstr
  dsimp only
  split
  · rename_i t ht
    have h := hload t ht
    split
    · exact .next (h.steady (.reservation _ _))
    · exact .next h
  · exact hload

theorem State.storeConditional_follows (rs : RegNum) (ea : Word) (size : AccessSize) :
    yields (Follows L s) (s.storeConditional rs ea size) := by
  unfold State.storeConditional
  split
  · exact State.storeAt_follows hs (s.storedCells_lt _ _) fun u => .of_tm id rfl rfl rfl rfl rfl rfl
  · have htouch := Steady.mayTouchPages s (s.operandAddresses ea size.bytes) true
    exact .next (Follows.complete ((htouch.follows hs).steady (.of_tm id rfl rfl rfl rfl rfl rfl)))

theorem State.readDevice_follows (rt : RegNum) (ea : Word) : yields (Follows L s) (s.readDevice rt ea) :=
  State.dataAccess_follows hs _ _ (List.forall_mem_nil _) fun _ hu =>
    .next (Follows.complete ((((hu.trans (.noteLoad _ _)).trans ((Steady.tick _).trans (.log _ _))).trans (.setGpr _ _ _)).follows hs))

theorem State.writeDevice_follows (rs : RegNum) (ea : Word) : yields (Follows L s) (s.writeDevice rs ea) :=
  State.dataAccess_follows hs _ _ (List.forall_mem_nil _) fun _ hu => .next (Follows.complete ((hu.trans (.log _ _)).follows hs))

theorem State.cacheManage_follows (op : CacheOp) (ea : Word) : yields (Follows L s) (s.cacheManage op ea) := by
  have htouch := Steady.mayTouchPages s [(s.effective ea).toNat] false
  unfold State.cacheManage
  dsimp only
  split
  · exact State.failDisallowed_follows (.refl s) hs
  · split
    · exact .next (Follows.complete ((htouch.trans (.arise _ _)).follows hs))
    · exact .next (Follows.complete (htouch.follows hs))

/-- mtmsr cannot write TS or TM (R254). -/
theorem State.moveToMsr_follows (value : Word) : yields (Follows L s) (s.moveToMsr value) := by
  have hts : msrTs (putTsTm value (msrTsTm s.msr)) = s.ts := by rw [msrTs_putTsTm, ← msrTs_eq]; rfl
  rcases State.moveToMsr_cases (rfl : s.moveToMsr value = _) with ⟨-, e⟩ | ⟨-, ⟨-, e⟩ | ⟨hT, -, e⟩ | ⟨hT, -, e⟩⟩ <;> rw [e]
  · exact .next ((Follows.refl hs).takeInterrupt _ _ _)
  · exact State.failDisallowed_follows (.refl s) hs
  all_goals
    have hu : Follows L s { s.complete with msr := putTsTm value (msrTsTm s.msr) } := by
      refine ⟨hs.loadMsr rfl rfl rfl rfl (wordAlign_add_four hs.niaAligned) ?_ ?_ ?_ ?_, fun _ => rfl, fun h => .inl (hts.trans h)⟩
      · exact iff_of_eq (congrArg (· = tsN) hts)
      · exact fun h => hs.tsLegal (hts.symm.trans h)
      · exact fun h => absurd (hts.symm.trans h) hT
      · exact fun h => absurd (hts.symm.trans h) hT
  · exact .next (hu.takeInterrupt _ _ _)
  · exact .next hu

theorem State.waitInstruction_follows : yields (Follows L s) s.waitInstruction := by
  unfold State.waitInstruction
  split
  · rename_i h
    have hS : s.ts = tsS := beq_iff_eq.1 (Bool.and_eq_true_iff.1 h).1
    have hN : s.tick.ts ≠ tsN := by rw [State.tick_ts, hS]; decide
    exact .next (Follows.complete (((Steady.tick s).trans (.recordFailure hN _ _)).follows hs))
  · exact State.mayBeDisallowed_follows hs _ (.next (Follows.complete ((Steady.tick s).follows hs)))

theorem State.floatingPoint_follows (writes : List RegWrite) (fex : Bool) : Follows L s (s.floatingPoint writes fex) := by
  have hwritten : Follows L s (State.tick { s.writeRegs writes with regs := { (s.writeRegs writes).regs with fex := fex } }) :=
    (Steady.follows (.writeRegs s writes) hs).steady (.of_tm id rfl rfl rfl rfl rfl rfl)
  unfold State.floatingPoint
  dsimp only
  split
  · exact hwritten.takeInterrupt _ _ _
  · exact hwritten.complete

theorem State.baseInterrupt_follows (i : BaseInterrupt) : Follows L s (s.baseInterrupt i) := by
  have hself : Follows L s s := .refl hs
  cases i with
  | trap => exact hself.takeInterrupt _ _ _
  | hypervisorEmulationAssistance => exact hself.emulationAssistance
  | _ => exact hself.freeStatusInterrupt _ _

theorem execBaseInstr_follows (b : BaseInstr) : yields (Follows L s) (execBaseInstr b s) := by
  have hdone : Follows L s s.complete := (Follows.refl hs).complete
  cases b with
  | compute writes => exact .next ((Steady.writeRegs s writes).follows hs).complete
  | floatingPoint writes fex => exact .next (State.floatingPoint_follows hs writes fex)
  | branch taken link decrement target => exact .next (State.branch_follows hs taken link decrement target)
  | load ea size parts updates => exact State.loadTo_follows hs ea size parts updates
  | store ea parts updates => exact State.storeAt_follows hs (s.storedCells_lt ea parts) fun u => .writeRegs u updates
  | dcbz ea => exact State.storeAt_follows hs (s.dcbzCells_lt ea) .refl
  | loadReserve rt ea size => exact State.loadReserve_follows hs rt ea size
  | storeConditional rs ea size => exact State.storeConditional_follows hs rs ea size
  | waitrsv => exact .next (Follows.complete ((Steady.reservation s _).follows hs))
  | cachingInhibitedLoad rt ea size =>
    have hload : yields (Follows L s) (s.tick.loadGpr rt ea size) := fun t h =>
      (State.loadTo_follows ((Steady.tick s).inv hs) ea _ _ _ t h).of_steady (.tick s)
    exact State.mayBeDisallowed_follows hs _ (body := fun t => t.loadGpr rt ea size) hload
  | cachingInhibitedStore rs ea size =>
    exact State.neverInT_follows hs _ (State.storeAt_follows hs (s.storedCells_lt _ _) .refl)
  | eciwx rt ea =>
    have hread : yields (Follows L s) (s.tick.readDevice rt ea) := fun t h =>
      (State.readDevice_follows ((Steady.tick s).inv hs) rt ea t h).of_steady (.tick s)
    exact State.mayBeDisallowed_follows hs _ (body := fun t => t.readDevice rt ea) hread
  | ecowx rs ea => exact State.neverInT_follows hs _ (State.writeDevice_follows hs rs ea)
  | cacheOp op ea => exact State.cacheManage_follows hs op ea
  | tlbie base size =>
    exact State.disallowedInT_follows hs (Follows.complete ((Steady.translationInvalidated s base size).follows hs))
  | tlbia => exact .next hdone
  | disallowed d writes => exact State.disallowedInT_follows hs (Follows.complete ((Steady.writeRegs s writes).follows hs))
  | mtmsr value => exact State.moveToMsr_follows hs value
  | wait => exact State.waitInstruction_follows hs
  | barrier b => exact .next (Follows.complete ((Steady.log s _).follows hs))
  | interrupt i => exact .next (State.baseInterrupt_follows hs i)
  | storageException e index access => exact State.stopAccess_follows (.ticks s 2) hs _ _ (access.cells_lt s) _

/-! ### The step -/

/-- The instruction at NIA, or the exception or the failure that its fetch meets. -/
theorem State.runInstruction_follows (hrun : s.power = .running) (b : Boundary) :
    yields (Follows (∃ i, s.fetchDecode = .ok i ∧ Instr.leavesNontransactional i) s) (s.runInstruction b) := by
  have hstopped := Steady.afterStoppedFetch s
  have hfetched := Steady.fetched s b
  have hinv := hfetched.inv hs
  unfold State.runInstruction
  split
  · exact .next ((hstopped.follows hs).freeStatusInterrupt _ _)
  · exact State.failNotExecuted_follows (hstopped.inv hs).memory hstopped.tfhar _
  · exact State.handlePending_follows_of_steady hstopped hs
  · split
    · rename_i i hi
      refine traceAfter_follows _ fun t h => ?_
      have hexec := (exec_follows hinv (hfetched.power.trans hrun) i t h).of_steady hfetched
      exact ⟨hexec.inv, hexec.handler, fun hN => (hexec.stays hN).imp id fun hl => ⟨i, hi, hl⟩⟩
    · split
      · refine traceAfter_follows _ fun t h => ?_
        exact (State.guardLevel_follows hinv _ (execBaseInstr_follows hinv _) t h).of_steady hfetched
      · exact .refused _
    all_goals exact .refused _

theorem State.proceed_follows (hrun : s.power = .running) (b : Boundary) :
    yields (Follows (∃ i, s.fetchDecode = .ok i ∧ Instr.leavesNontransactional i) s) (s.proceed b) := by
  rcases State.proceed_cases (rfl : s.proceed b = _) with ⟨i, -, e⟩ | ⟨-, e⟩ | ⟨-, e⟩ <;> rw [e]
  · exact .next ((Follows.refl hs).takeAsync i)
  · exact State.handlePending_follows_of_steady (.refl s) hs
  · exact State.runInstruction_follows hs hrun b

/-- Whatever a power-saving level loses, the thread is Non-transactional after it, as it was in it (R270). -/
theorem State.powerSavingStep_follows (hN : s.ts = tsN) : Follows L s s.powerSavingStep := by
  unfold State.powerSavingStep
  split
  · exact (Follows.refl hs).jump hs.niaAligned false
  · rename_i i _
    have hexit : (s.afterPowerSaving i).mem = s.mem ∧ (s.afterPowerSaving i).tm = s.tm ∧ (s.afterPowerSaving i).ts = tsN := by
      have hlost (m : Word) : msrTs (putTs m s.ts) = tsN := (msrTs_putTs _ _).trans hN
      unfold State.afterPowerSaving State.afterLevel
      split
      · exact ⟨rfl, rfl, hlost _⟩
      · split
        · exact ⟨rfl, rfl, hN⟩
        · exact ⟨rfl, rfl, hN⟩
        all_goals exact ⟨rfl, rfl, hlost _⟩
    obtain ⟨hmem, htm, hts⟩ := hexit
    have htsN : ((s.afterPowerSaving i).takeAsync i).ts = tsN := by rw [State.takeAsync_ts, hts]; rfl
    refine ⟨.of_nontransactional ?_ htsN ?_ (wordAlign_wordAlign _), fun h => absurd hN h, fun _ => .inl htsN⟩
    · exact hmem ▸ hs.memory
    · exact htm.trans (hs.idle hN)

/-- What a boundary leaves: the agent's doings are steady, and leave the instruction at NIA. -/
theorem State.atBoundary_follows (b : Boundary) :
    yields (Follows (∃ i, s.fetchDecode = .ok i ∧ Instr.leavesNontransactional i) s) (s.atBoundary b) := by
  have hagent := Steady.agent s b.agent
  have hdecode := (Undisturbed.agent s b.agent).fetchDecode
  rcases State.atBoundary_cases (rfl : s.atBoundary b = _) with ⟨hp, e⟩ | ⟨hp, -, e⟩ | ⟨hp, -, e⟩ <;> rw [e]
  · exact .next (State.powerSavingStep_follows hs (hs.asleep hp))
  · have htick := hagent.trans (.tick _)
    rcases State.fpBoundary_cases (rfl : (s.agent b.agent).fpBoundary b = _) with e | ⟨-, e⟩ <;> rw [e]
    · exact .next ((htick.follows hs).takeInterrupt _ _ _)
    · have h := State.proceed_follows (htick.inv hs) (htick.power.trans hp) b
      rw [show (s.agent b.agent).tick.fetchDecode = s.fetchDecode from hdecode] at h
      exact fun t ht => (h t ht).of_steady htick
  · have h := State.proceed_follows (hagent.inv hs) (hagent.power.trans hp) b
    rw [hdecode] at h
    exact fun t ht => (h t ht).of_steady hagent

end

/-- The thread once the other agents' events of the boundary have happened. -/
def State.afterExternals (s : State) : State := s.popTape.applyExternals s.boundary.external

/-- One step from a state with the invariant (R184). -/
theorem step_follows (hs : s.Inv) :
    yields (Follows (∃ i, s.afterExternals.fetchDecode = .ok i ∧ Instr.leavesNontransactional i) s) (step s) := by
  have hother : Steady s s.afterExternals := (Steady.popTape s).trans (.applyExternals _ _)
  unfold step
  split
  · exact .refused _
  · exact fun t h => (State.atBoundary_follows (hother.inv hs) _ t h).of_steady hother

/-- Settles O6. -/
theorem stepKeepsInvariant : Obligations.StepKeepsInvariant := fun _ t hs hstep => (step_follows hs t hstep).inv

/-- Settles O10. -/
theorem handlerAddressKept : Obligations.HandlerAddressKept := fun _ t hs hN hstep => (step_follows hs t hstep).handler hN

/-- Settles O11: without a store of another processor the instruction that leaves Non-transactional state is the one at NIA before the step. -/
theorem leaveNontransactional : Obligations.LeaveNontransactional := by
  intro s t hs hN hext hstep
  have hother : s.afterExternals.fetchDecode = s.fetchDecode :=
    ((Undisturbed.popTape s).trans (.applyExternals _ hext)).fetchDecode
  rcases (step_follows hs t hstep).stays hN with h | ⟨i, hi, ⟨a, r, rfl⟩ | rfl⟩
  · exact .inl h
  · exact .inr (.inl ⟨a, r, hother ▸ hi⟩)
  · exact .inr (.inr (hother ▸ hi))

end Sys2Proof.Machine
end

section
/-!
PROOFS. Failure recording and failure handling, and the instructions that lead to them (40_tm_states_failure.md rules R155, R162, R163, R168, R172,
R175, R176, R180; 42_tm_abort.md rules R210 to R216; 43_tm_suspend_check.md rule R220).
-/

namespace Sys2Proof.Machine

/-! ### What a recording writes -/

/-- Bits 32 and 34 to 37 of TEXASR after a recording (R172): Suspended only ever set, HV, PR, FS and TFIAR Exact. -/
theorem texasrRecorded_flags (x : Word) (cause : Word32) (su hv pr ex : Bool) :
    let y := texasrRecorded x cause su hv pr ex
    bit y 32 = (bit x 32 || su) ∧ bit y 34 = hv ∧ bit y 35 = pr ∧ bit y 36 = true ∧ bit y 37 = ex := by
  have hcause : bit (putField x 32 32 cause) 32 = bit x 32 := (bit_putField x 32 32 cause 32 (by decide)).trans (if_neg (by decide))
  intro y
  simp only [y, texasrRecorded]
  refine ⟨?_, ?_, ?_, ?_, ?_⟩ <;> simp (disch := decide) only [bit_putBit, reduceIte, Nat.reduceEqDiff]
  cases su
  · simpa using hcause
  · simp (disch := decide) [bit_putBit]

/-- TFIAR after a recording: the address in bits 0 to 61, HV and PR in bits 62 and 63 (R172). -/
theorem tfiarRecorded_bits (a : Word) (hv pr : Bool) :
    let y := tfiarRecorded a (BitVec.ofBool hv ++ BitVec.ofBool pr)
    (∀ k, k < 62 → bit y k = bit a k) ∧ bit y 62 = hv ∧ bit y 63 = pr := by
  refine ⟨fun k hk => ?_, ?_, ?_⟩
  · rw [tfiarRecorded, bit_putField _ _ _ _ _ (by omega), if_neg (by omega)]
  · rw [tfiarRecorded, bit_putField _ _ _ _ _ (by decide)]
    cases hv <;> cases pr <;> rfl
  · rw [tfiarRecorded, bit_putField _ _ _ _ _ (by decide)]
    cases hv <;> cases pr <;> rfl

/-- A first recording, whole (R172). -/
theorem State.recordFailure_of_not_fs {s : State} (h : s.fs = false) (cause : Word32) (ia : Option Word) :
    s.recordFailure cause ia = { s with
      sprs := { s.sprs with
        texasr := texasrRecorded s.sprs.texasr cause (s.ts == tsS) (msrHv s.msr) (msrPr s.msr) ia.isSome
        tfiar := tfiarRecorded (ia.getD (Config.freeWord s.draws)) s.hvPr }
      tm := { s.tm with tdoomed := true }
      draws := if ia.isSome then s.draws else s.draws + 1 } := by
  simp [State.recordFailure, h]

/-- Settles O12: the two images bit by bit. -/
theorem recordFailure : Obligations.RecordFailure := by
  intro s cause ia t
  refine ⟨fun h => State.recordFailure_of_fs h cause ia, fun h => ?_⟩
  have ht : t = _ := State.recordFailure_of_not_fs h cause ia
  clear_value t
  subst ht
  obtain ⟨hsuspended, hhv, hpr, hfs, hexact⟩ := texasrRecorded_flags s.sprs.texasr cause (s.ts == tsS) (msrHv s.msr) (msrPr s.msr) ia.isSome
  obtain ⟨haddress, htfiarHv, htfiarPr⟩ := tfiarRecorded_bits (ia.getD (Config.freeWord s.draws)) (msrHv s.msr) (msrPr s.msr)
  refine ⟨rfl, texasrRecorded_cause _ _ _ _ _ _, hsuspended, hhv, hpr, hfs, hexact, texasrRecorded_bit _ _ _ _ _ _, ?_, htfiarHv, htfiarPr⟩
  rintro a rfl
  exact haddress

/-- A recording with a known address, as the statements about an instruction's own failure say it. -/
theorem State.recordFailure_recordedIn (s : State) (cause : Word32) (ia : Word) : recordedIn cause ia s (s.recordFailure cause (some ia)) := by
  obtain ⟨hdone, hfirst⟩ := Machine.recordFailure s cause (some ia)
  refine ⟨s.recordFailure_sprs _ _, fun h => by rw [hdone h]; exact ⟨rfl, rfl⟩, fun h => ?_⟩
  obtain ⟨-, hcause, hsuspended, hhv, hpr, hfs, hexact, hrest, haddress, htfiarHv, htfiarPr⟩ := hfirst h
  exact ⟨hcause, hsuspended, hhv, hpr, hfs, hexact, hrest, haddress ia rfl, htfiarHv, htfiarPr⟩

/-- A recording with a known address changes TEXASR, TFIAR and TDOOMED. -/
theorem State.recordFailure_frame (s : State) (cause : Word32) (ia : Word) :
    s.recordFailure cause (some ia) = { s with
      sprs := (s.recordFailure cause (some ia)).sprs
      tm := { s.tm with tdoomed := (s.recordFailure cause (some ia)).tm.tdoomed } } := by
  unfold State.recordFailure
  split <;> rfl

/-- What is recorded depends on TEXASR, TFIAR and the other special registers, and on the MSR. -/
theorem recordedIn_congr {cause : Word32} {ia : Word} {s s' t t' : State} (h : recordedIn cause ia s t) (hsprs : s'.sprs = s.sprs)
    (hmsr : s'.msr = s.msr) (htsprs : t'.sprs = t.sprs) : recordedIn cause ia s' t' := by
  unfold recordedIn State.fs State.ts at *
  rw [hsprs, hmsr, htsprs]
  exact h

/-! ### What handling leaves -/

theorem sameBitsBut_refl (bits : List Nat) (x : Word) : sameBitsBut bits x x := fun _ _ => rfl

/-- A change of TS changes bits 29 and 30 only (R30). -/
theorem sameBitsBut_putTs (m : Word) (ts : BitVec 2) : sameBitsBut [29, 30] m (putTs m ts) := by
  intro k hk
  by_cases hlt : k < 64
  · exact bit_putTs _ _ _ hlt (by simpa using hk)
  · rw [bit_of_ge _ _ (Nat.le_of_not_lt hlt), bit_of_ge _ _ (Nat.le_of_not_lt hlt)]

/-- Failure handling where a checkpoint is held, under the MSR the thread has (R175, R176). -/
theorem State.handleFailure_handledUnder {u : State} {c : Checkpoint} (hc : u.tm.checkpoint = some c) :
    ∃ t, u.handleFailure = .next t ∧ handledUnder c u.msr u t ∧ t.completed = u.completed := by
  refine ⟨_, State.handleFailure_next hc, ⟨⟨rfl, fun j hj => ?_, fun k => ?_⟩, ?_, ?_, sameBitsBut_putTs _ _, noTransaction_idle, rfl⟩, rfl⟩
  · exact (crField_putCrField_of_ne _ _ _ _ hj).trans (crField_putCrField_of_ne _ _ _ _ hj)
  · by_cases hk : k < 64
    · exact bit_select _ _ _ _ hk
    · simp only [bit_of_ge _ _ (Nat.le_of_not_lt hk)]
      rfl
  · exact crField_putCrField _ _ _
  · exact msrTs_putTs _ _

/-- Handling of a thread that differs from `s` in what handling overwrites, in the record of the failure and in MSR.TS. -/
theorem handledTo_of_handledUnder {c : Checkpoint} {s u t : State} (h : handledUnder c u.msr u t)
    (hu : u = { s with
      cr := u.cr, msr := u.msr, nia := u.nia, sprs := u.sprs, tm := u.tm, reservation := u.reservation, draws := u.draws
      completed := u.completed })
    (hmsr : sameBitsBut [29, 30] s.msr u.msr) (htfhar : u.sprs.tfhar = s.sprs.tfhar) : handledTo c s t ∧ t.sprs = u.sprs := by
  obtain ⟨⟨hregs, hcr, hxer⟩, hcr0, hts, htmsr, htm, ht⟩ := h
  have hsprs : t.sprs = u.sprs := by rw [ht]
  have hnia : t.nia = wordAlign s.sprs.tfhar := by rw [ht, htfhar]
  have huxer : u.xer = s.xer := by rw [hu]
  refine ⟨⟨⟨hregs, hcr, fun k => huxer ▸ hxer k⟩, hcr0, hts, fun k hk => (htmsr k hk).trans (hmsr k hk), hnia, htm, ?_⟩, hsprs⟩
  rw [ht, hu]

/-- Settles O13. -/
theorem handleFailure : Obligations.HandleFailure := by
  intro s c hc
  obtain ⟨t, hexec, hunder, -⟩ := State.handleFailure_handledUnder hc
  obtain ⟨hhandled, hsprs⟩ := handledTo_of_handledUnder hunder rfl (sameBitsBut_refl _ _) rfl
  exact ⟨t, hexec, hhandled, hsprs⟩

/-! ### Disallowed instructions -/

/-- A precise failure of an instruction that is not executed, with the checkpoint that an active transaction has (R168, R178). -/
theorem State.failNotExecuted_of_checkpoint {s : State} {c : Checkpoint} (hc : s.tm.checkpoint = some c) (cause : Word32) :
    ∃ t, s.failNotExecuted cause = .next t ∧ recordedIn cause s.nia s t ∧ handledTo c s t ∧ t.completed = false := by
  have hrecorded := State.recordFailure_recordedIn { s with completed := false } cause s.nia
  unfold State.failNotExecuted
  generalize hu : State.recordFailure { s with completed := false } cause (some s.nia) = u at *
  have hframe : u = { s with sprs := u.sprs, tm := { s.tm with tdoomed := u.tm.tdoomed }, completed := false } := by
    rw [← hu]
    exact State.recordFailure_frame _ _ _
  have hcu : u.tm.checkpoint = some c := by rw [hframe]; exact hc
  have htfhar : u.sprs.tfhar = s.sprs.tfhar := by rw [hrecorded.1]
  have hmsr : u.msr = s.msr := by rw [hframe]
  obtain ⟨t, hexec, hunder, hcompleted⟩ := State.handleFailure_handledUnder hcu
  obtain ⟨hhandled, hsprs⟩ := handledTo_of_handledUnder hunder (by rw [hframe]) (by rw [hmsr]; exact sameBitsBut_refl _ _) htfhar
  refine ⟨t, hexec, recordedIn_congr hrecorded rfl rfl hsprs, hhandled, hcompleted.trans ?_⟩
  rw [hframe]

theorem State.guardLevel_of_mayRun {s : State} {level : PrivLevel} (h : s.mayRun level = true) (body : Result) :
    s.guardLevel level body = body := by
  simp [State.guardLevel, h]

theorem State.unlessTransactional_of_transactional {s : State} (h : s.ts = tsT) (body : Result) :
    s.unlessTransactional body = s.failDisallowed := if_pos h

theorem State.enterPowerSaving_of_transactional {s : State} (h : s.ts = tsT) (hlevel : s.hypervisorState = true) (level : PowerLevel) :
    s.enterPowerSaving level = s.failDisallowed := by
  unfold State.enterPowerSaving
  rw [State.guardLevel_of_mayRun (level := .hypervisor) hlevel, if_pos h]

/-- The disallowed instructions of the table come to `failDisallowed` in Transactional state where their level suffices (R162). -/
theorem exec_of_disallowed {i : Instr} {s : State} (hT : s.ts = tsT)
    (hi : (i = .rfid ∨ ∃ rs l, i = .mtmsrd rs l) ∧ msrPr s.msr = false ∨
      (i = .hrfid ∨ i = .doze ∨ i = .nap ∨ i = .sleep ∨ i = .rvwinkle) ∧ s.hypervisorState = true) :
    exec i s = s.failDisallowed := by
  have hprivileged (h : msrPr s.msr = false) : s.mayRun .privileged = true := by rw [State.mayRun, h]; rfl
  have hreturn {level : PrivLevel} (h : s.mayRun level = true) (body : Result) :
      s.guardLevel level (s.unlessTransactional body) = s.failDisallowed :=
    (State.guardLevel_of_mayRun h _).trans (State.unlessTransactional_of_transactional hT _)
  rcases hi with ⟨rfl | ⟨rs, l, rfl⟩, hpr⟩ | ⟨rfl | rfl | rfl | rfl | rfl, hhv⟩
  · exact hreturn (hprivileged hpr) _
  · exact hreturn (hprivileged hpr) _
  · exact hreturn (level := .hypervisor) hhv _
  all_goals exact State.enterPowerSaving_of_transactional hT hhv _

/-- Settles O49. -/
theorem disallowedInTransactional : Obligations.DisallowedInTransactional := by
  intro i s c hT hc hi
  rw [exec_of_disallowed hT hi]
  exact State.failNotExecuted_of_checkpoint hc _

/-- Settles O36. -/
theorem mtsprDisallowed : Obligations.MtsprDisallowed := by
  intro n rs s reg level c hrow hlevel hT htm hspeculative hc
  have hexec : exec (.mtspr n rs) s = s.failDisallowed := by
    show execMtspr n rs s = _
    unfold execMtspr
    rw [hrow]
    dsimp only
    rw [State.guardLevel_of_mayRun hlevel, State.moveToSpr, if_neg (by rw [htm]; exact Bool.false_ne_true),
      if_pos (by rw [hT, hspeculative]; rfl)]
  rw [hexec]
  exact State.failNotExecuted_of_checkpoint hc _

/-! ### When an abort is asked for -/

/-- Words are ordered as numbers without a sign alike before and after sign extension (R212). -/
theorem toNat_signExtend_lt {x y : Word32} (h : x.toNat < y.toNat) : (x.signExtend 64).toNat < (y.signExtend 64).toNat := by
  have hx := x.isLt
  have hy := y.isLt
  simp only [BitVec.toNat_signExtend, BitVec.toNat_setWidth, BitVec.msb_eq_decide, decide_eq_true_eq]
  split <;> split <;> omega

/-- The condition of the model is the condition in numbers, where the numbers are those of the operands (R212, R216). -/
theorem abortCondition_of_abortHolds {cond : BitVec 5} {a b : Word} {x y : Int} {ua ub : Nat} (hx : a.toInt = x) (hy : b.toInt = y)
    (hlt : ua < ub → a.toNat < b.toNat) (hgt : ub < ua → b.toNat < a.toNat) (h : abortHolds cond x y ua ub) :
    abortCondition cond a b = true := by
  subst hx hy
  simp only [abortCondition, BitVec.slt, BitVec.ult, Bool.or_eq_true, Bool.and_eq_true, decide_eq_true_eq, beq_iff_eq]
  rcases h with ⟨hc, h⟩ | ⟨hc, h⟩ | ⟨hc, h⟩ | ⟨hc, h⟩ | ⟨hc, h⟩
  · exact .inl (.inl (.inl (.inl ⟨hc, h⟩)))
  · exact .inl (.inl (.inl (.inr ⟨hc, h⟩)))
  · exact .inl (.inl (.inr ⟨hc, BitVec.eq_of_toInt_eq h⟩))
  · exact .inl (.inr ⟨hc, hlt h⟩)
  · exact .inr ⟨hc, hgt h⟩

theorem siValue_toInt {si : Int} (h : siFits si = true) : (siValue si).toInt = si := by
  simp only [siFits, Bool.and_eq_true, decide_eq_true_eq] at h
  exact BitVec.toInt_ofInt_eq_self (by decide) (by omega) (by omega)

theorem State.gprWord_toInt (s : State) (r : RegNum) : (s.gprWord r).toInt = ((s.gpr r).setWidth 32).toInt :=
  BitVec.toInt_signExtend_of_le (by decide)

/-- The cause with a software code, as a number (R211). -/
theorem State.abortCause_eq (s : State) (ra : RegNum) : s.abortCause ra = codeOf s ra := by
  unfold State.abortCause codeOf
  split
  · rfl
  · apply BitVec.eq_of_toNat_eq
    rw [BitVec.toNat_append, ← Nat.shiftLeft_add_eq_or_of_lt (BitVec.isLt _)]
    simp only [BitVec.toNat_setWidth, BitVec.toNat_ofNat, Nat.shiftLeft_eq]
    omega

/-- An abort that is asked for comes to the failure with its cause, where a transaction is active (R210 to R215). -/
theorem exec_abort_of_asked {i : Instr} {s : State} (hi : isAbort i = true) (hasked : abortAsked s i) :
    exec i s = s.guardTm (s.abortIf true (abortCauseOf s i)) := by
  have hcondition {cond : BitVec 5} {a b : Word} (h : abortCondition cond a b = true) :
      s.guardTm (s.abortIf (abortCondition cond a b) abortCode) = s.guardTm (s.abortIf true abortCode) := by rw [h]
  cases i with
  | tabort ra =>
    show s.guardTm (s.abortIf true (s.abortCause ra)) = _
    rw [s.abortCause_eq]
    rfl
  | tabortwc cond ra rb =>
    exact hcondition (abortCondition_of_abortHolds (s.gprWord_toInt ra) (s.gprWord_toInt rb) toNat_signExtend_lt toNat_signExtend_lt hasked)
  | tabortwci cond ra si =>
    exact hcondition (abortCondition_of_abortHolds (s.gprWord_toInt ra) (siValue_toInt hi) id id hasked)
  | tabortdc cond ra rb => exact hcondition (abortCondition_of_abortHolds rfl rfl id id hasked)
  | tabortdci cond ra si => exact hcondition (abortCondition_of_abortHolds rfl (siValue_toInt hi) id id hasked)
  | _ => cases hi

/-! ### Suspended state -/

/-- CR0 with the state before the instruction, the other fields kept (R24). -/
theorem crFieldSet_putCrField (cr : Word32) (i : BitVec 3) (v : CrField) : crFieldSet i v cr (putCrField cr i v) :=
  ⟨crField_putCrField cr i v, fun _ hj => crField_putCrField_of_ne cr i _ v hj⟩

theorem State.guardTm_of_usable {s : State} (h : s.tmUsable) (body : Result) : s.guardTm body = body :=
  State.guardTm_of_available ((State.availability_available_iff s).2 h) body

/-- Settles O17. -/
theorem tbeginSuspended : Obligations.TbeginSuspended := by
  intro a r s husable hS
  have hexec : exec (.tbegin a r) s = .next s.setCr0State.complete := by
    refine (State.guardTm_of_usable husable _).trans ?_
    unfold State.beginTransaction
    dsimp only
    rw [if_neg (by rw [hS]; decide), if_neg (by rw [hS]; decide)]
  refine ⟨_, hexec, ?_, rfl⟩
  rw [State.complete_cr, State.setCr0State_cr, hS]
  exact crFieldSet_putCrField _ _ _

/-- An abort in Suspended state (R180, R210): the updates discarded, the failure recorded, the handling owed. -/
theorem State.abortIf_of_suspended {s : State} (hS : s.ts = tsS) (cause : Word32) :
    let u := s.setCr0State.discardUpdates.recordFailure cause (some s.nia)
    s.abortIf true cause = .next { u with tm := { u.tm with handleOnResume := true } }.complete := by
  have hactive : s.active = true := by rw [State.active, hS]; rfl
  unfold State.abortIf State.abort
  dsimp only
  rw [if_pos (by rw [hactive]; rfl), if_neg (by rw [State.setCr0State_ts, hS]; decide)]
  rfl

/-- Settles O24. -/
theorem abortSuspended : Obligations.AbortSuspended := by
  intro i s hi husable hS hasked
  have hexec := (exec_abort_of_asked hi hasked).trans
    ((State.guardTm_of_usable husable _).trans (State.abortIf_of_suspended hS (abortCauseOf s i)))
  have hrecorded := State.recordFailure_recordedIn s.setCr0State.discardUpdates (abortCauseOf s i) s.nia
  have hfs := State.recordFailure_fs s.setCr0State.discardUpdates (abortCauseOf s i) (some s.nia)
  have htm := State.recordFailure_tm s.setCr0State.discardUpdates (abortCauseOf s i) (some s.nia)
  have hframe := State.recordFailure_frame s.setCr0State.discardUpdates (abortCauseOf s i) s.nia
  dsimp only at hexec
  generalize s.setCr0State.discardUpdates.recordFailure (abortCauseOf s i) (some s.nia) = u at *
  refine ⟨_, hexec, ?_, recordedIn_congr hrecorded rfl rfl rfl, hfs, ?_, fun h => ?_, ?_⟩
  · rw [hframe, ← show stateField s.ts = 0b0010 by rw [hS]; rfl]
    exact crFieldSet_putCrField _ _ _
  · rw [hframe]
    rfl
  · show u.tm.tdoomed = true
    rw [htm, if_neg (by rw [State.discardUpdates_fs, State.setCr0State_fs, h]; exact Bool.false_ne_true)]
  · rw [hframe]
    rfl

/-- Settles O27: the resume comes to failure handling of the resumed transaction. -/
theorem tsrResumeHandles : Obligations.TsrResumeHandles := by
  intro s c husable hS howed hc
  have hexec : exec (.tsr true) s =
      State.handleFailure { (s.setCr0State.setTs tsT).complete with reservation := s.setCr0State.reservationOnResume } := by
    refine (State.guardTm_of_usable husable _).trans ?_
    unfold State.suspendOrResume State.afterResume
    dsimp only
    rw [if_pos rfl, if_pos hS]
    exact if_pos howed
  rw [hexec]
  obtain ⟨t, hhandle, hunder, hcompleted⟩ := State.handleFailure_handledUnder (u :=
    { (s.setCr0State.setTs tsT).complete with reservation := s.setCr0State.reservationOnResume }) hc
  obtain ⟨hhandled, hsprs⟩ := handledTo_of_handledUnder (s := s) hunder rfl (sameBitsBut_putTs _ _) rfl
  exact ⟨t, hhandle, hhandled, hsprs, hcompleted⟩

end Sys2Proof.Machine
end

section
/-!
PROOFS. rfid, hrfid and mtmsrd L=0 that resume a transaction whose handling is owed (40_tm_states_failure.md rule R180; 46_msr_linkage.md rules R252
to R254).
-/

namespace Sys2Proof.Machine

/-! ### The MSR that is loaded, bit by bit -/

/-- What the three instructions share: EE, IR and DR with the image's PR, the mask's bits from the image, the rest from the MSR. -/
theorem bit_loadMsrBits (mask old image : Word) {k : Nat} (hk : k < 64) :
    bit (loadMsrBits mask old image) k =
      if k = 48 ∨ k = 58 ∨ k = 59 then bit image k || bit image 49 else if bit mask k then bit image k else bit old k := by
  unfold loadMsrBits
  dsimp only
  rw [bit_putBit _ _ _ _ (by decide) hk, bit_putBit _ _ _ _ (by decide) hk, bit_putBit _ _ _ _ (by decide) hk, bit_select _ _ _ _ hk]
  by_cases h59 : k = 59
  · subst h59; rfl
  · by_cases h58 : k = 58
    · subst h58; rfl
    · by_cases h48 : k = 48
      · subst h48; rfl
      · rw [if_neg h59, if_neg h58, if_neg h48, if_neg (show ¬ (k = 48 ∨ k = 58 ∨ k = 59) by omega)]

/-- rfid: the same but for HV and ME (R252). -/
theorem bit_rfidMsr (msr srr1 : Word) {k : Nat} (hk : k < 64) (h3 : k ≠ 3) (h51 : k ≠ 51) :
    bit (rfidMsr msr srr1) k = bit (loadMsrBits rfidMask msr srr1) k := by
  rw [rfidMsr, bit_putBit _ _ _ _ (by decide) hk, if_neg h3, bit_putBit _ _ _ _ (by decide) hk, if_neg h51]

theorem bit_rfidMsr_hv (msr srr1 : Word) : bit (rfidMsr msr srr1) 3 = (bit msr 3 && bit srr1 3) :=
  bit_putBit _ 3 3 _ (by decide) (by decide)

theorem bit_rfidMsr_me (msr srr1 : Word) :
    bit (rfidMsr msr srr1) 51 = ((bit msr 3 && bit srr1 51) || (!bit msr 3 && bit msr 51)) := by
  rw [rfidMsr, bit_putBit _ _ _ _ (by decide) (by decide), if_neg (by decide), bit_putBit _ _ _ _ (by decide) (by decide), if_pos rfl]

/-- The places `ks` take the image's bits: the mask has them, and none of them is treated one by one. -/
def copiedBy (mask : Word) (ks : List Nat) : Prop :=
  ∀ k ∈ ks, k < 64 ∧ (k < 29 ∨ 31 < k) ∧ ¬ (k = 48 ∨ k = 58 ∨ k = 59) ∧ bit mask k = true

/-- The places `ks` keep the MSR's bits. -/
def keptBy (mask : Word) (ks : List Nat) : Prop :=
  ∀ k ∈ ks, k < 64 ∧ (k < 29 ∨ 31 < k) ∧ ¬ (k = 48 ∨ k = 58 ∨ k = 59) ∧ bit mask k = false

section
variable {mask old image loaded : Word} {ks : List Nat} (v : BitVec 3)
  (hloaded : ∀ k ∈ ks, bit loaded k = bit (loadMsrBits mask old image) k)
include hloaded

theorem bitsFrom_of_copiedBy (h : copiedBy mask ks) : bitsFrom ks image (putTsTm loaded v) := by
  intro k hk
  obtain ⟨hlt, hts, hnot, hmask⟩ := h k hk
  rw [bit_putTsTm _ _ _ hlt hts, hloaded k hk, bit_loadMsrBits _ _ _ hlt, if_neg hnot, if_pos hmask]

theorem bitsFrom_of_keptBy (h : keptBy mask ks) : bitsFrom ks old (putTsTm loaded v) := by
  intro k hk
  obtain ⟨hlt, hts, hnot, hmask⟩ := h k hk
  rw [bit_putTsTm _ _ _ hlt hts, hloaded k hk, bit_loadMsrBits _ _ _ hlt, if_neg hnot, if_neg (by rw [hmask]; exact Bool.false_ne_true)]

end

theorem orsPr_of_loaded {mask old image loaded : Word} (v : BitVec 3)
    (hloaded : ∀ k ∈ [48, 58, 59], bit loaded k = bit (loadMsrBits mask old image) k) : orsPr image (putTsTm loaded v) := by
  refine ⟨?_, ?_, ?_⟩ <;>
  · rw [bit_putTsTm _ _ _ (by decide) (by decide), hloaded _ (by decide), bit_loadMsrBits _ _ _ (by decide)]
    rfl

theorem rfidLoaded_putTsTm (s : State) (v : BitVec 3) : rfidLoaded s (putTsTm (rfidMsr s.msr s.sprs.srr1) v) := by
  have hsame {ks : List Nat} (h : ∀ k ∈ ks, k < 64 ∧ k ≠ 3 ∧ k ≠ 51) : ∀ k ∈ ks,
      bit (rfidMsr s.msr s.sprs.srr1) k = bit (loadMsrBits rfidMask s.msr s.sprs.srr1) k := fun k hk =>
    bit_rfidMsr _ _ (h k hk).1 (h k hk).2.1 (h k hk).2.2
  refine ⟨bitsFrom_of_copiedBy v (hsame (by decide)) (by unfold copiedBy; decide),
    bitsFrom_of_keptBy v (hsame (by decide)) (by unfold keptBy; decide), ?_, ?_, orsPr_of_loaded v (hsame (by decide))⟩
  · rw [bit_putTsTm _ _ _ (by decide) (by decide), bit_rfidMsr_hv]
  · rw [bit_putTsTm _ _ _ (by decide) (by decide), bit_rfidMsr_me]

theorem hrfidLoaded_putTsTm (s : State) (v : BitVec 3) :
    hrfidLoaded s (putTsTm (loadMsrBits hrfidMask s.msr s.sprs.hsrr1) v) :=
  ⟨bitsFrom_of_copiedBy v (fun _ _ => rfl) (by unfold copiedBy; decide), bitsFrom_of_keptBy v (fun _ _ => rfl) (by unfold keptBy; decide),
    orsPr_of_loaded v fun _ _ => rfl⟩

theorem mtmsrdLoaded_putTsTm (rs : RegNum) (s : State) (v : BitVec 3) :
    mtmsrdLoaded rs s (putTsTm (loadMsrBits mtmsrdMask s.msr (s.gpr rs)) v) :=
  ⟨bitsFrom_of_copiedBy v (fun _ _ => rfl) (by unfold copiedBy; decide), bitsFrom_of_keptBy v (fun _ _ => rfl) (by unfold keptBy; decide),
    orsPr_of_loaded v fun _ _ => rfl⟩

/-! ### The resume -/

/-- Table 2: from Suspended state, T1 is written (R250). -/
theorem tmTransition_resume : ∀ cur : BitVec 3, cur.extractLsb' 1 2 = tsS → tmTransition cur 0b101 = .write 0b101 := by decide

/-- The two bits of the floating-point exception mode are 0b00 exactly where both are zero (R285). -/
theorem msrFe_eq_zero_iff (m : Word) : msrFe m = 0b00 ↔ bit m 52 = false ∧ bit m 55 = false := by
  unfold msrFe
  cases bit m 52 <;> cases bit m 55 <;> decide

/-- A return forbidden by the PCR is forbidden by the image's PR bit and the thread's state. -/
theorem State.pcrBadThing_of_not_forbidden {s : State} {image m : Word} (hS : s.ts = tsS) (hpr : bit m 49 = bit image 49)
    (h : ¬ pcrForbids s image) : s.pcrBadThing m = false := by
  rw [Bool.eq_false_iff]
  intro hbad
  simp only [State.pcrBadThing, Bool.and_eq_true] at hbad
  exact h ⟨hpr ▸ hbad.1.1, by rw [hS]; decide, hbad.2⟩

/-- A pending Floating-Point Enabled Exception is enabled by the image's FE0 and FE1 only. -/
theorem State.fpEnabledBy_of_not_arises {s : State} {image m : Word} (h52 : bit m 52 = bit image 52) (h55 : bit m 55 = bit image 55)
    (h : ¬ fpArises s image) : s.fpEnabledBy m = false := by
  rw [Bool.eq_false_iff]
  intro hfp
  simp only [State.fpEnabledBy, Bool.and_eq_true, beq_iff_eq, bne_iff_ne, ne_eq, msrFe_eq_zero_iff] at hfp
  obtain ⟨⟨hfex, hold52, hold55⟩, hnew⟩ := hfp
  refine h ⟨hfex, hold52, hold55, ?_⟩
  rw [← h52, ← h55]
  by_contra hnone
  simp only [not_or, Bool.not_eq_true] at hnone
  exact hnew hnone

/-- A return that resumes a transaction whose handling is owed: failure handling under the MSR that was loaded (R180, R252 corner case a). -/
theorem State.loadMsr_of_owed {s : State} {c : Checkpoint} {image loaded : Word} (hS : s.ts = tsS) (howed : s.tm.handleOnResume = true)
    (hc : s.tm.checkpoint = some c) (himage : msrTsTm image = 0b101) (hpcr : ¬ pcrForbids s image) (hfp : ¬ fpArises s image)
    (hbits : bitsFrom [49, 52, 55] image (putTsTm loaded 0b101)) (next : Word → Word) (traced : Bool) :
    ∃ t, s.loadMsr image loaded next traced = .next t ∧ handledUnder c (putTsTm loaded 0b101) s t ∧ t.completed = traced := by
  have htransition : tmTransition (msrTsTm s.msr) (msrTsTm image) = .write 0b101 := by
    rw [himage]
    exact tmTransition_resume _ ((msrTs_eq _).symm.trans hS)
  have hts : msrTs (putTsTm loaded 0b101) = tsT := msrTs_putTsTm _ _
  have hbad := State.pcrBadThing_of_not_forbidden hS (hbits 49 (by decide)) hpcr
  have hnofp := State.fpEnabledBy_of_not_arises (hbits 52 (by decide)) (hbits 55 (by decide)) hfp
  have hcases := State.loadMsr_cases (rfl : s.loadMsr image loaded next traced = _)
  rw [htransition] at hcases
  dsimp only [Transition.applyTo] at hcases
  rw [hbad, hnofp, hS, hts, howed] at hcases
  rcases hcases with ⟨h | h, -⟩ | ⟨-, -, ⟨h, -⟩ | ⟨-, -, e⟩ | ⟨-, h, -⟩⟩
  · cases h
  · cases h
  · cases h
  · rw [e]
    obtain ⟨t, hexec, hunder, hcompleted⟩ := State.handleFailure_handledUnder (c := c) (u := { s with
      msr := putTsTm loaded 0b101, completed := traced, nia := wordAlign s.sprs.tfhar, reservation := s.reservationOnResume }) hc
    exact ⟨t, (if_pos howed).trans hexec, hunder, hcompleted⟩
  · cases h

theorem State.guardReturn_of_suspended {s : State} (hS : s.ts = tsS) {level : PrivLevel} (hlevel : s.mayRun level = true) (body : Result) :
    s.guardLevel level (s.unlessTransactional body) = body := by
  rw [State.guardLevel_of_mayRun hlevel, State.unlessTransactional, if_neg (by rw [hS]; decide)]

/-- One of the three, with its level and its MSR `loaded`: it resumes and the handling that is owed runs. -/
theorem State.return_of_owed {s : State} {c : Checkpoint} {image loaded : Word} {level : PrivLevel} {ks : List Nat} (hS : s.ts = tsS)
    (howed : s.tm.handleOnResume = true) (hc : s.tm.checkpoint = some c) (hlevel : s.mayRun level = true) (himage : msrTsTm image = 0b101)
    (hpcr : ¬ pcrForbids s image) (hfp : ¬ fpArises s image) (hcopied : bitsFrom ks image (putTsTm loaded 0b101))
    (hks : ∀ k ∈ [49, 52, 55], k ∈ ks) (next : Word → Word) (traced : Bool) :
    ∃ t, s.guardLevel level (s.unlessTransactional (s.loadMsr image loaded next traced)) = .next t ∧
      msrTsTm (putTsTm loaded 0b101) = 0b101 ∧ handledUnder c (putTsTm loaded 0b101) s t ∧ t.completed = traced := by
  obtain ⟨t, hexec, hunder, hcompleted⟩ :=
    State.loadMsr_of_owed hS howed hc himage hpcr hfp (fun k hk => hcopied k (hks k hk)) next traced
  exact ⟨t, (State.guardReturn_of_suspended hS hlevel _).trans hexec, msrTsTm_putTsTm _ _, hunder, hcompleted⟩

/-- Settles O45: each of the three loads its own MSR, and then all is `State.return_of_owed`. -/
theorem returnHandlesOwed : Obligations.ReturnHandlesOwed := by
  intro s c hS howed hc
  have hprivileged (h : msrPr s.msr = false) : s.mayRun .privileged = true := by rw [State.mayRun, h]; rfl
  refine ⟨fun hpr himage hpcr hfp => ?_, fun hhv himage hpcr hfp => ?_, fun rs hpr himage hpcr hfp => ?_⟩
  · have hloaded := rfidLoaded_putTsTm s 0b101
    obtain ⟨t, hexec, h⟩ := State.return_of_owed hS howed hc (hprivileged hpr) himage hpcr hfp hloaded.1 (by decide)
      (fun m => returnAddress m s.sprs.srr0) false
    exact ⟨t, _, hexec, hloaded, h⟩
  · have hloaded := hrfidLoaded_putTsTm s 0b101
    obtain ⟨t, hexec, h⟩ := State.return_of_owed (level := .hypervisor) hS howed hc hhv himage hpcr hfp hloaded.1 (by decide)
      (fun m => returnAddress m s.sprs.hsrr0) false
    exact ⟨t, _, hexec, hloaded, h⟩
  · have hloaded := mtmsrdLoaded_putTsTm rs s 0b101
    obtain ⟨t, hexec, h⟩ := State.return_of_owed hS howed hc (hprivileged hpr) himage hpcr hfp hloaded.1 (by decide)
      (fun _ => s.nia + 4) true
    exact ⟨t, _, hexec, hloaded, h⟩

end Sys2Proof.Machine
end

section
/-!
PROOFS. A step at a boundary at which nothing else happens (40_tm_states_failure.md rule R184; 20_memory.md rules R105, R109; 10_state.md rule R54).
-/

namespace Sys2Proof.Machine

variable {s : State}

theorem State.active_iff_of_legal (h : s.ts ≠ 0b11) : s.active = true ↔ s.ts ≠ tsN :=
  ⟨State.ts_ne_of_active, fun hN => State.active_of_ts hN h⟩

/-- A cause is overwritten by a store only if it is certain (R54). -/
theorem Latent.overwrote_of_not_certain {l : Latent} (h : l.certain = false) (addrs : List Nat) : l.overwrote addrs = false := by
  unfold Latent.overwrote
  split
  · rw [h, Bool.false_and]
  · rfl
  · rfl

/-- What the fetch leaves: the instruction's address among those executed, Reference bits and draws, and of the causes of failure nothing, where
neither a store of the transaction nor an undetected certain cause is there (R54, R85, R105, R109). -/
theorem State.afterFetch_frame (s : State) :
    ∃ tdoomed pending latent draws,
      s.afterFetch = { s with
        tm := { s.tm with
          executed := if s.active then s.tm.executed ++ [s.nia] else s.tm.executed
          tdoomed := tdoomed, pending := pending, latent := latent }
        draws := draws, pages := marked s.fetchAddresses true false s.pages } ∧
      (s.tm.tdoomed = true → tdoomed = true) ∧
      (touches (s.tm.writeSet ++ s.tm.specWrites) s.fetchAddresses = false → (∀ l, l ∈ s.tm.latent → l.certain = false) →
        tdoomed = s.tm.tdoomed ∧ pending = s.tm.pending ∧ latent = s.tm.latent) := by
  obtain ⟨u, hu⟩ : ∃ u, u = s.noteExecuted.tick.tick.touchPages s.fetchAddresses true false := ⟨_, rfl⟩
  have hframe : u = { s with
      tm := { s.tm with executed := if s.active then s.tm.executed ++ [s.nia] else s.tm.executed }
      draws := s.draws + 1 + 1, pages := marked s.fetchAddresses true false s.pages } := by
    rw [hu, State.noteExecuted]
    split <;> rfl
  have hlatent : u.tm.latent = s.tm.latent := by rw [hframe]
  have hkept (h : ∀ l, l ∈ s.tm.latent → l.certain = false) : u.settle (·.overwrote s.fetchAddresses) = u :=
    State.settle_of_none fun l hl => Latent.overwrote_of_not_certain (h l (hlatent ▸ hl)) _
  obtain ⟨tdoomed, pending, latent, draws, hsettle, hdoomed⟩ := u.settle_frame (·.overwrote s.fetchAddresses)
  have hstays (h : s.tm.tdoomed = true) : tdoomed = true := hdoomed (by rw [hframe]; exact h)
  unfold State.afterFetch
  dsimp only
  rw [← hu]
  split
  · rename_i htouched
    obtain ⟨tdoomed', pending', latent', draws', harise, hdoomed'⟩ := (u.settle (·.overwrote s.fetchAddresses)).arise_frame
      ⟨⟨.instructionFetchConflict, some s.nia⟩, false, .bytes false s.fetchAddresses⟩
    refine ⟨tdoomed', pending', latent', draws', ?_, fun h => hdoomed' ?_, fun h => absurd htouched (by rw [h]; exact Bool.false_ne_true)⟩
    · rw [State.mayFail, harise, hsettle, hframe]
    · rw [hsettle]; exact hstays h
  · refine ⟨tdoomed, pending, latent, draws, by rw [hsettle, hframe], hstays, fun _ h => ?_⟩
    have htm := congrArg State.tm (hsettle.symm.trans (hkept h))
    rw [hframe] at htm
    exact ⟨congrArg Facility.tdoomed htm, congrArg Facility.pending htm, congrArg Facility.latent htm⟩

/-! ### A quiet boundary -/

/-- Taking an entry of the tape changes the tape and the draws. -/
theorem State.popTape_frame (s : State) : s.popTape = { s with tape := s.popTape.tape, draws := s.popTape.draws } := by
  unfold State.popTape
  split <;> rfl

theorem State.agent_quiet (s : State) : s.agent AgentDraw.quiet = s := rfl

/-- A fetch from a page without a fetch exception that is not, in Transactional state, Caching Inhibited. -/
theorem State.fetchOutcome_of_clear
    (h : ∀ p, s.pageAt (s.effective s.nia).toNat = some p → p.fetchException = none ∧ (s.ts = tsT → p.cachingInhibited = false)) :
    s.fetchOutcome = .fetched := by
  unfold State.fetchOutcome
  cases hp : s.pageAt (s.effective s.nia).toNat with
  | none => rfl
  | some p =>
    obtain ⟨hnone, hcached⟩ := h p hp
    have hallowed : (s.ts == tsT && p.cachingInhibited) = false := by
      by_cases hT : s.ts = tsT
      · rw [hcached hT, Bool.and_false]
      · simp [hT]
    simp [hnone, State.disallowedFetch, hallowed]

/-- Where no interrupt and no failure handling comes first, a thread that executes runs the instruction at NIA. -/
theorem State.atBoundary_of_quiet {b : Boundary} (hquiet : b.agent = AgentDraw.quiet) (hrun : s.power = .running)
    (hnone : s.nextInterrupt = none) (hfp : s.fpDue = false) (howed : s.ts = tsT → s.tm.handleOnResume = false) :
    s.atBoundary b = s.runInstruction b := by
  have hhandle : ((s.ts == tsT && s.tm.handleOnResume) || s.agentHandles b.agent.handle) = false := by
    rw [hquiet]
    by_cases hT : s.ts = tsT
    · rw [howed hT, Bool.and_false]; rfl
    · simp [hT, State.agentHandles, AgentDraw.quiet]
  unfold State.atBoundary
  rw [if_neg (by simp [hrun]), hquiet, State.agent_quiet]
  simp only [hfp, Bool.false_eq_true, if_false]
  unfold State.proceed State.runOrHandle
  rw [hnone]
  exact if_neg (by rw [hhandle]; exact Bool.false_ne_true)

/-- The instruction decoded at NIA, where its fetch meets nothing. -/
theorem State.runInstruction_of_decoded {b : Boundary} {i : Instr} (hquiet : b.agent = AgentDraw.quiet) (hfetched : s.fetchOutcome = .fetched)
    (hdecode : s.fetchDecode = .ok i) : s.runInstruction b = traceAfter (msrSe s.msr) (exec i s.afterFetch) := by
  have htraces : s.traces false = msrSe s.msr := by rw [State.traces, Bool.and_false, Bool.or_false]
  unfold State.runInstruction State.fetched
  rw [hfetched, hdecode, htraces, hquiet]
  rfl

/-- Settles O5: the step runs the instruction after its fetch (`State.afterFetch_frame`). -/
theorem stepRunsDecoded : Obligations.StepRunsDecoded := by
  intro s i hreachable ⟨hexternal, hquiet⟩ hrun hnone hfp howed hclear hdecode
  have hlegal : s.ts ≠ 0b11 := by
    intro h
    simp [State.unreachableTs, h] at hreachable
  have hstep : step s = s.popTape.atBoundary s.boundary := by
    unfold step
    rw [hreachable, hexternal]
    rfl
  have hpop := s.popTape_frame
  obtain ⟨tdoomed, pending, latent, draws, hfetch, hdoomed, hkept⟩ := s.popTape.afterFetch_frame
  rw [hstep]
  generalize s.popTape = u at hpop hfetch hdoomed hkept ⊢
  generalize u.tape = tape, u.draws = drawn at hpop
  subst hpop
  have hruns := (State.atBoundary_of_quiet (s := { s with tape := tape, draws := drawn }) hquiet hrun hnone hfp howed).trans
    (State.runInstruction_of_decoded hquiet (State.fetchOutcome_of_clear hclear) hdecode)
  rw [hruns, hfetch]
  refine ⟨_, rfl, rfl, ?_, hdoomed, hkept⟩
  have hexecuted : (if s.active then s.tm.executed ++ [s.nia] else s.tm.executed) =
      if s.ts = tsN then s.tm.executed else s.tm.executed ++ [s.nia] := by
    by_cases hN : s.ts = tsN
    · rw [if_pos hN, if_neg fun h => (State.active_iff_of_legal hlegal).1 h hN]
    · rw [if_neg hN, if_pos ((State.active_iff_of_legal hlegal).2 hN)]
  rw [← hexecuted]
  rfl

end Sys2Proof.Machine
end

section
/-!
PROOFS. tbegin. and tend., and the availability check that all TM instructions share (41_tm_begin_end.md rules R201 to R203).
-/

namespace Sys2Proof.Machine

/-! ### tbegin. and tend. with the facility available -/

theorem exec_tbegin_of_usable {s : State} (h : s.tmUsable) (a r : Bool) : exec (.tbegin a r) s = s.beginTransaction r :=
  State.guardTm_of_usable h _

theorem exec_tend_of_usable {s : State} (h : s.tmUsable) (a : Bool) : exec (.tend a) s = s.endTransactionLevel a :=
  State.guardTm_of_usable h _

/-- An instruction that writes the state it began in to CR0 (R24). -/
theorem State.crFieldSet_setCr0State {s : State} {v : CrField} (h : stateField s.ts = v) : crFieldSet 0 v s.cr s.setCr0State.cr := by
  rw [State.setCr0State_cr, h]
  exact crFieldSet_putCrField _ _ _

/-- Where it is undefined whether a reservation is lost, none is established (R100 item b, U16). -/
theorem State.reservationPerhapsLost_reservation (s : State) :
    s.reservationPerhapsLost.reservation = s.reservation ∨ s.reservationPerhapsLost.reservation = none := by
  unfold State.reservationPerhapsLost
  dsimp only
  split
  · exact .inl rfl
  · exact .inr rfl

/-! ### tend. outside a transaction -/

/-- Settles O21. -/
theorem tendNontransactional : Obligations.TendNontransactional := by
  intro a s husable hN
  have hexec : exec (.tend a) s = .next s.setCr0State.complete := by
    rw [exec_tend_of_usable husable]
    unfold State.endTransactionLevel
    dsimp only
    rw [if_neg (by rw [hN]; decide), if_neg (by rw [hN]; decide)]
  exact ⟨_, hexec, State.crFieldSet_setCr0State (by rw [hN]; rfl), rfl⟩

/-! ### An outer transaction -/

theorem State.beginTransaction_of_nontransactional {s : State} (hN : s.ts = tsN) (rot : Bool) :
    s.beginTransaction rot = .next (s.setCr0State.beginOuter rot).complete := if_pos hN

/-- TEXASR of an outer transaction as a number: level 1, and ROT at the place of value 2^25 (R202). -/
theorem outerTexasr_toNat (rot : Bool) : (outerTexasr rot).toNat = (if rot then 2 ^ 25 else 0) + 1 := by
  cases rot <;> decide

/-- The beginning of an outer transaction, whole (R202). -/
theorem State.beginOuter_eq (s : State) (rot : Bool) :
    s.beginOuter rot = { s with
      msr := putTs s.msr tsT
      sprs := { s.sprs with texasr := outerTexasr rot, tfhar := s.nia + 4 }
      tm := { Facility.idle with checkpoint := some s.registersNow }
      reservation := none
      storageLog := if rot then s.storageLog else s.storageLog ++ fullBarrier } := by
  cases rot <;> rfl

/-- Settles O14: the checkpoint is of the registers with CR0 written, the other fields of CR as they were. -/
theorem tbeginOuter : Obligations.TbeginOuter := by
  intro a r s husable hN
  have hexec : exec (.tbegin a r) s = .next (s.setCr0State.beginOuter r).complete := by
    rw [exec_tbegin_of_usable husable, State.beginTransaction_of_nontransactional hN]
  obtain ⟨hcr0, hcr⟩ : crFieldSet 0 0b0000 s.cr s.setCr0State.cr := State.crFieldSet_setCr0State (by rw [hN]; rfl)
  rw [State.beginOuter_eq] at hexec
  exact ⟨_, s.setCr0State.registersNow, hexec, ⟨hcr0, hcr⟩, msrTs_putTs _ _, sameBitsBut_putTs _ _, outerTexasr_toNat r, rfl, rfl, rfl, rfl,
    hcr, rfl⟩

/-! ### A nested transaction -/

theorem State.beginTransaction_of_nested {s : State} (hT : s.ts = tsT) (hmax : liveTl s.sprs.texasr ≠ Config.tlMax) (rot : Bool) :
    s.beginTransaction rot = .next (s.setCr0State.beginNested rot).complete := by
  unfold State.beginTransaction
  dsimp only
  rw [if_neg (by rw [hT]; decide), if_pos hT, if_neg hmax]

/-- TEXASR after a nested tbegin.: one level more, and ROT cleared by a normal one (R202). -/
def nestedTexasr (x : Word) (rot : Bool) : Word :=
  if texasrRot x && !rot then putBit (putTl x (texasrTl x + 1)) 38 false else putTl x (texasrTl x + 1)

/-- The beginning of a nested transaction, whole (R202). -/
theorem State.beginNested_eq (s : State) (rot : Bool) :
    s.beginNested rot = State.reservationPerhapsLost { s with
      sprs := { s.sprs with texasr := nestedTexasr s.sprs.texasr rot }
      storageLog := if texasrRot s.sprs.texasr && !rot then s.storageLog ++ fullBarrier else s.storageLog } := by
  unfold State.beginNested nestedTexasr State.rot
  dsimp only
  split <;> rfl

theorem texasrTl_nestedTexasr (x : Word) (rot : Bool) : texasrTl (nestedTexasr x rot) = texasrTl x + 1 := by
  unfold nestedTexasr
  split
  · rw [texasrTl_putBit _ _ _ (by decide), texasrTl_putTl]
  · rw [texasrTl_putTl]

theorem texasrRot_nestedTexasr (x : Word) (rot : Bool) : texasrRot (nestedTexasr x rot) = (texasrRot x && rot) := by
  unfold nestedTexasr
  split
  · rename_i hclears
    have hnormal : rot = false := by simpa using (Bool.and_eq_true_iff.1 hclears).2
    rw [hnormal, Bool.and_false]
    exact bit_putBit _ 38 38 _ (by decide) (by decide)
  · rename_i hkeeps
    rw [texasrRot_putTl]
    revert hkeeps
    cases texasrRot x <;> cases rot <;> decide

theorem bit_nestedTexasr (x : Word) (rot : Bool) {k : Nat} (hk : k < 52) (hrot : k ≠ 38) : bit (nestedTexasr x rot) k = bit x k := by
  have htl := bit_putTl x (texasrTl x + 1) k hk
  unfold nestedTexasr
  split
  · rw [bit_putBit _ _ _ _ (by decide) (by omega), if_neg hrot, htl]
  · exact htl

/-- Settles O15: below TLmax one level more still fits TEXASR.TL. -/
theorem tbeginNested : Obligations.TbeginNested := by
  intro a r s husable hT hbelow
  have hmax : liveTl s.sprs.texasr ≠ Config.tlMax := by
    rw [liveTl_of_le hbelow.le]
    exact hbelow.ne
  have hexec : exec (.tbegin a r) s = .next (s.setCr0State.beginNested r).complete := by
    rw [exec_tbegin_of_usable husable, State.beginTransaction_of_nested hT hmax]
  have hlevel : (texasrTl s.sprs.texasr + 1).toNat = (texasrTl s.sprs.texasr).toNat + 1 :=
    BitVec.toNat_add_of_lt (Nat.lt_of_le_of_lt hbelow Config.tlMax_lt)
  rw [State.beginNested_eq] at hexec
  refine ⟨_, hexec, State.crFieldSet_setCr0State (by rw [hT]; rfl), ?_, texasrRot_nestedTexasr _ _, fun _ => bit_nestedTexasr _ _,
    State.reservationPerhapsLost_reservation _, rfl⟩
  exact (congrArg BitVec.toNat (texasrTl_nestedTexasr _ _)).trans hlevel

/-- Settles O16: the tbegin. fails as an instruction that is not executed, with CR0 written before; handling writes CR0 again. -/
theorem tbeginOverflow : Obligations.TbeginOverflow := by
  intro a r s c husable hT hmax hc
  have hexec : exec (.tbegin a r) s = s.setCr0State.failNotExecuted s.params.nestOverflowCode := by
    rw [exec_tbegin_of_usable husable]
    unfold State.beginTransaction
    dsimp only
    rw [if_neg (by rw [hT]; decide), if_pos hT, if_pos ((liveTl_of_le hmax.le).trans hmax)]
  obtain ⟨t, hfails, hrecorded, hhandled, hcompleted⟩ :=
    State.failNotExecuted_of_checkpoint (s := s.setCr0State) hc s.params.nestOverflowCode
  exact ⟨t, hexec.trans hfails, recordedIn_congr hrecorded rfl rfl rfl, hhandled, hcompleted⟩

/-! ### The end of a nested transaction -/

/-- The end of a nested transaction, whole, but at level 0, where the level after it is free (R203, U25). -/
theorem State.endNested_eq {s : State} (h : texasrTl s.sprs.texasr ≠ 0) :
    s.endNested = State.reservationPerhapsLost { s with
      sprs := { s.sprs with texasr := putTl s.sprs.texasr (texasrTl s.sprs.texasr - 1) } } := if_neg h

/-- Settles O19. -/
theorem tendNested : Obligations.TendNested := by
  intro s husable hT habove
  have hone : texasrTl s.sprs.texasr ≠ 1 := fun h => by rw [h] at habove; exact absurd habove (by decide)
  have hzero : texasrTl s.sprs.texasr ≠ 0 := fun h => by rw [h] at habove; exact absurd habove (by decide)
  have hexec : exec (.tend false) s = .next s.setCr0State.endNested.complete := by
    rw [exec_tend_of_usable husable]
    unfold State.endTransactionLevel
    dsimp only
    rw [if_neg (by rw [hT]; decide), if_pos hT, if_neg (by simpa using hone)]
  have hlevel : (texasrTl s.sprs.texasr - 1).toNat = (texasrTl s.sprs.texasr).toNat - 1 := BitVec.toNat_sub_of_le habove.le
  rw [State.endNested_eq (s := s.setCr0State) hzero] at hexec
  refine ⟨_, hexec, State.crFieldSet_setCr0State (by rw [hT]; rfl), ?_, fun _ => bit_putTl _ _ _, State.reservationPerhapsLost_reservation _, rfl⟩
  have htl := (congrArg BitVec.toNat (texasrTl_putTl s.sprs.texasr (texasrTl s.sprs.texasr - 1))).trans hlevel
  refine (congrArg (· + 1) htl).trans ?_
  omega

/-! ### A commit attempt -/

theorem State.endTransactionLevel_of_outermost {s : State} {a : Bool} (hT : s.ts = tsT) (h : a = true ∨ texasrTl s.sprs.texasr = 1) :
    s.endTransactionLevel a = s.setCr0State.tryCommit := by
  unfold State.endTransactionLevel
  dsimp only
  rw [if_neg (by rw [hT]; decide), if_pos hT, if_pos (by simpa using h)]

/-- A transaction that need not fail commits (R203). -/
theorem State.tryCommit_of_not_failing {s : State} (h : ¬ s.tm.failing) : s.tryCommit = .next s.commit.complete := by
  have hcertain : s.settle (·.certain) = s :=
    State.settle_certain_of_none fun l hl => Bool.eq_false_iff.2 fun hc => h (.inr ⟨l, hl, hc⟩)
  unfold State.tryCommit
  rw [hcertain]
  exact if_neg fun hd => h (.inl hd)

/-- Settles O18: the transactional data, which rise by address, are stored byte by byte. -/
theorem tendCommits : Obligations.TendCommits := by
  intro a s husable hT houtermost hlive hrise
  have hexec : exec (.tend a) s = .next s.setCr0State.commit.complete := by
    rw [exec_tend_of_usable husable, State.endTransactionLevel_of_outermost hT houtermost]
    exact State.tryCommit_of_not_failing (s := s.setCr0State) hlive
  refine ⟨_, hexec, State.crFieldSet_setCr0State (by rw [hT]; rfl), Memory.read_writeCells_of_rise s.mem hrise, msrTs_putTs _ _,
    sameBitsBut_putTs _ _, noTransaction_idle, texasrTl_putTl _ _, fun _ => bit_putTl _ _ _, rfl, rfl⟩

/-- At a commit attempt a transaction that must fail is found doomed (R161, R357). -/
theorem State.settle_certain_of_failing {s : State} (h : s.tm.failing) : (s.settle (·.certain)).tm.tdoomed = true := by
  obtain hd | ⟨l, hl, hc⟩ := h
  · obtain ⟨_, _, _, _, hsettle, hstays⟩ := s.settle_frame (·.certain)
    rw [hsettle]
    exact hstays hd
  · exact State.settle_tdoomed hl hc hc

theorem State.recordPending_of_fs {s : State} (h : s.fs = true) : s.recordPending = s := if_pos h

/-- A recording of a pending cause changes TEXASR, TFIAR, TDOOMED and the draws (R170, R172). -/
theorem State.recordPending_frame (s : State) :
    s.recordPending = { s with
      sprs := s.recordPending.sprs, tm := { s.tm with tdoomed := s.recordPending.tm.tdoomed }, draws := s.recordPending.draws } := by
  unfold State.recordPending State.recordImprecise State.recordFailure
  split
  · rfl
  · split <;> rfl

/-- The thread that a failing commit attempt hands to failure handling: the certain causes detected and the failure recorded (R161, R170). -/
def State.failedCommit (s : State) : State := { (s.settle (·.certain)).recordPending with completed := true }

theorem State.tryCommit_of_failing {s : State} (h : s.tm.failing) : s.tryCommit = s.failedCommit.handleFailure :=
  if_pos (State.settle_certain_of_failing h)

theorem State.failedCommit_frame (s : State) :
    ∃ tdoomed pending latent draws, s.failedCommit = { s with
      sprs := s.failedCommit.sprs, tm := { s.tm with tdoomed := tdoomed, pending := pending, latent := latent }, draws := draws
      completed := true } := by
  obtain ⟨_, pending, latent, _, hsettle, -⟩ := s.settle_frame (·.certain)
  have hrecord := (s.settle (·.certain)).recordPending_frame
  unfold State.failedCommit
  generalize s.settle (·.certain) = u at hsettle hrecord ⊢
  subst hsettle
  exact ⟨_, pending, latent, _, by rw [hrecord]⟩

/-- A failing commit attempt writes TEXASR and TFIAR, and neither where a failure is recorded already (R174). -/
theorem State.failedCommit_sprs (s : State) :
    s.failedCommit.sprs = { s.sprs with texasr := s.failedCommit.sprs.texasr, tfiar := s.failedCommit.sprs.tfiar } ∧
      (s.fs = true → s.failedCommit.sprs = s.sprs) :=
  ⟨(s.settle (·.certain)).recordPending_sprs, fun h => by rw [State.failedCommit, State.recordPending_of_fs (s := s.settle _) h]; rfl⟩

theorem State.failedCommit_fs (s : State) : s.failedCommit.fs = true := (s.settle (·.certain)).recordPending_fs

theorem State.failedCommit_tl (s : State) : texasrTl s.failedCommit.sprs.texasr = texasrTl s.sprs.texasr :=
  (s.settle (·.certain)).recordPending_tl

/-- Settles O20: failure handling keeps the record that the failing commit attempt leaves (`State.failedCommit_sprs`). -/
theorem tendDoomed : Obligations.TendDoomed := by
  intro a s c husable hT houtermost hfailing hc
  have hexec : exec (.tend a) s = s.setCr0State.failedCommit.handleFailure := by
    rw [exec_tend_of_usable husable, State.endTransactionLevel_of_outermost hT houtermost]
    exact State.tryCommit_of_failing (s := s.setCr0State) hfailing
  have hfs := s.setCr0State.failedCommit_fs
  have htl := s.setCr0State.failedCommit_tl
  obtain ⟨hsprs, hkept⟩ := s.setCr0State.failedCommit_sprs
  obtain ⟨_, _, _, _, hframe⟩ := s.setCr0State.failedCommit_frame
  generalize s.setCr0State.failedCommit = u at hexec hfs htl hsprs hkept hframe
  obtain ⟨t, hhandle, hunder, -⟩ := State.handleFailure_handledUnder (u := u) (c := c) (by rw [hframe]; exact hc)
  obtain ⟨hhandled, htsprs⟩ := handledTo_of_handledUnder (s := s) hunder (by rw [hframe]; rfl)
    (by rw [hframe]; exact sameBitsBut_refl _ _) (by rw [hsprs]; rfl)
  refine ⟨t, hexec.trans hhandle, hhandled, (State.fs_eq htsprs).trans hfs, ?_⟩
  rw [htsprs]
  exact ⟨hsprs, htl, hkept⟩

/-! ### The facility unavailable -/

/-- The check of R201, a clause for each way it fails. -/
theorem State.guardTm_of_unavailable (s : State) (body : Result) :
    (msrPr s.msr = true ∧ s.tmDisabledByPcr = true → s.guardTm body = .refused .tmDisabledByPcr) ∧
    (¬ (msrPr s.msr = true ∧ s.tmDisabledByPcr = true) →
      (s.hypervisorState = false → s.controls.hfscrTm = false → s.guardTm body = .next s.hypervisorFacilityUnavailable) ∧
      (s.hypervisorState = true ∨ s.controls.hfscrTm = true → msrTm s.msr = false →
        s.guardTm body = .next s.facilityUnavailable)) := by
  unfold State.guardTm State.availability
  refine ⟨fun hpcr => ?_, fun hpcr => ⟨fun hhv hhfscr => ?_, fun hallowed htm => ?_⟩⟩
  · rw [if_pos (by simpa using hpcr)]
  · rw [if_neg (by simpa using hpcr), if_pos (by rw [hhv, hhfscr]; rfl)]
  · have hhv : ¬ (!s.hypervisorState && !s.controls.hfscrTm) = true := by
      rcases hallowed with h | h <;> simp [h]
    rw [if_neg (by simpa using hpcr), if_neg hhv, if_pos (by rw [htm]; rfl)]

/-- SPR 128 to 131 are TM registers of problem state, for mfspr and for mtspr alike (R46). -/
theorem sprRow_of_tm {n : Nat} (hlow : 128 ≤ n) (hhigh : n ≤ 131) :
    ∃ reg, mfsprRow n = some (reg, .problem) ∧ mtsprRow n = some (reg, .problem) ∧ reg.isTm = true := by
  obtain ⟨⟨hf128, hf129, hf130, hf131⟩, ⟨ht128, ht129, ht130, ht131⟩, -⟩ := tmSprNumbers
  obtain rfl | rfl | rfl | rfl : n = 128 ∨ n = 129 ∨ n = 130 ∨ n = 131 := by omega
  · exact ⟨_, hf128, ht128, rfl⟩
  · exact ⟨_, hf129, ht129, rfl⟩
  · exact ⟨_, hf130, ht130, rfl⟩
  · exact ⟨_, hf131, ht131, rfl⟩

theorem State.guardLevel_privileged {s : State} (h : msrPr s.msr = false) (body : Result) : s.guardLevel .privileged body = body :=
  State.guardLevel_of_mayRun (by rw [State.mayRun, h]; rfl) body

/-- The eleven TM instructions, treclaim. and trechkpt. where they are privileged enough, are all guarded by the check of R201. -/
theorem exec_guarded_of_isTm {i : Instr} {s : State} (hi : i.isTm = true)
    (hlevel : (∃ ra, i = .treclaim ra) ∨ i = .trechkpt → msrPr s.msr = false) : ∃ body, exec i s = s.guardTm body := by
  cases i with
  | tbegin | tend | tabort | tabortwc | tabortwci | tabortdc | tabortdci | tsr | tcheck => exact ⟨_, rfl⟩
  | treclaim ra => exact ⟨_, State.guardLevel_privileged (hlevel (.inl ⟨ra, rfl⟩)) _⟩
  | trechkpt => exact ⟨_, State.guardLevel_privileged (hlevel (.inr rfl)) _⟩
  | _ => cases hi

/-- So are the moves from and to the TM registers. -/
theorem exec_guarded_of_tmSpr {i : Instr} {n : Nat} {r : RegNum} (s : State) (hlow : 128 ≤ n) (hhigh : n ≤ 131)
    (hi : i = .mfspr r n ∨ i = .mtspr n r) : ∃ body, exec i s = s.guardTm body := by
  obtain ⟨reg, hmfspr, hmtspr, htm⟩ := sprRow_of_tm hlow hhigh
  have hproblem (body : Result) : s.guardLevel .problem body = body := State.guardLevel_of_mayRun rfl body
  rcases hi with rfl | rfl
  · refine ⟨.next (s.setGpr r (s.mfsprValue reg)).complete, ?_⟩
    show execMfspr r n s = _
    unfold execMfspr
    rw [hmfspr]
    exact (hproblem _).trans (if_pos htm)
  · refine ⟨if s.ts = tsN then .next (s.writeSpr (s.gpr r) reg).complete else .next s.tmBadThing, ?_⟩
    show execMtspr n r s = _
    unfold execMtspr
    rw [hmtspr]
    exact (hproblem _).trans (if_pos htm)

/-- Settles O50. -/
theorem facilityUnavailable : Obligations.FacilityUnavailable := by
  intro i s hi hlevel
  obtain ⟨body, hguarded⟩ : ∃ body, exec i s = s.guardTm body := by
    rcases hi with htm | ⟨n, r, hlow, hhigh, hmove⟩
    · exact exec_guarded_of_isTm htm hlevel
    · exact exec_guarded_of_tmSpr s hlow hhigh hmove
  rw [hguarded]
  exact s.guardTm_of_unavailable body

end Sys2Proof.Machine
end

section
/-!
PROOFS. The abort instructions outside Suspended state (42_tm_abort.md rules R210 to R216).
-/

namespace Sys2Proof.Machine

/-! ### When an abort is not asked for -/

/-- Words that are ordered after sign extension were ordered before it (R212). -/
theorem toNat_lt_of_toNat_signExtend_lt {x y : Word32} (h : (x.signExtend 64).toNat < (y.signExtend 64).toNat) : x.toNat < y.toNat := by
  rcases Nat.lt_trichotomy x.toNat y.toNat with hlt | heq | hgt
  · exact hlt
  · exact absurd h (by rw [BitVec.eq_of_toNat_eq heq]; exact Nat.lt_irrefl _)
  · exact absurd h (toNat_signExtend_lt hgt).asymm

/-- The condition in numbers follows from the condition of the model: the converse of `abortCondition_of_abortHolds` (R212, R216). -/
theorem abortHolds_of_abortCondition {cond : BitVec 5} {a b : Word} {x y : Int} {ua ub : Nat} (hx : a.toInt = x) (hy : b.toInt = y)
    (hlt : a.toNat < b.toNat → ua < ub) (hgt : b.toNat < a.toNat → ub < ua) (h : abortCondition cond a b = true) :
    abortHolds cond x y ua ub := by
  subst hx hy
  simp only [abortCondition, BitVec.slt, BitVec.ult, Bool.or_eq_true, Bool.and_eq_true, decide_eq_true_eq, beq_iff_eq] at h
  rcases h with (((⟨hc, h⟩ | ⟨hc, h⟩) | ⟨hc, h⟩) | ⟨hc, h⟩) | ⟨hc, h⟩
  · exact .inl ⟨hc, h⟩
  · exact .inr (.inl ⟨hc, h⟩)
  · exact .inr (.inr (.inl ⟨hc, congrArg BitVec.toInt h⟩))
  · exact .inr (.inr (.inr (.inl ⟨hc, hlt h⟩)))
  · exact .inr (.inr (.inr (.inr ⟨hc, hgt h⟩)))

/-- Every abort instruction is the shared abort under some condition, and one whose condition holds is asked for (R210 to R215). -/
theorem exec_abort_eq {i : Instr} (s : State) (hi : isAbort i = true) :
    ∃ condition, exec i s = s.guardTm (s.abortIf condition (abortCauseOf s i)) ∧ (condition = true → abortAsked s i) := by
  cases i with
  | tabort ra => exact ⟨true, exec_abort_of_asked hi trivial, fun _ => trivial⟩
  | tabortwc cond ra rb =>
    exact ⟨_, rfl, abortHolds_of_abortCondition (s.gprWord_toInt ra) (s.gprWord_toInt rb) toNat_lt_of_toNat_signExtend_lt
      toNat_lt_of_toNat_signExtend_lt⟩
  | tabortwci cond ra si => exact ⟨_, rfl, abortHolds_of_abortCondition (s.gprWord_toInt ra) (siValue_toInt hi) id id⟩
  | tabortdc cond ra rb => exact ⟨_, rfl, abortHolds_of_abortCondition rfl rfl id id⟩
  | tabortdci cond ra si => exact ⟨_, rfl, abortHolds_of_abortCondition rfl (siValue_toInt hi) id id⟩
  | _ => cases hi

/-- An abort whose condition is false, or in a state with no active transaction, goes on with the next instruction (R210). -/
theorem State.abortIf_of_not_active {s : State} {condition : Bool} (h : ¬ (condition = true ∧ s.active = true)) (cause : Word32) :
    s.abortIf condition cause = .next s.setCr0State.complete :=
  if_neg (by rwa [Bool.and_eq_true])

/-- Settles O22. -/
theorem abortNoEffect : Obligations.AbortNoEffect := by
  intro i s hi husable hquiet
  obtain ⟨condition, hexec, hasked⟩ := exec_abort_eq s hi
  have hnot : ¬ (condition = true ∧ s.active = true) := by
    rintro ⟨hcondition, hactive⟩
    rcases hquiet with hN | hfalse
    · rw [State.active, hN] at hactive
      exact absurd hactive (by decide)
    · exact hfalse (hasked hcondition)
  exact ⟨_, hexec.trans ((State.guardTm_of_usable husable _).trans (State.abortIf_of_not_active hnot _)),
    State.crFieldSet_setCr0State rfl, rfl⟩

/-! ### Transactional state -/

/-- A precise failure, recorded and then handled with the checkpoint that is held (R172, R176). -/
theorem State.recordFailure_handleFailure_of_checkpoint {s : State} {c : Checkpoint} (hc : s.tm.checkpoint = some c) (cause : Word32)
    (ia : Word) :
    ∃ t, (s.recordFailure cause (some ia)).handleFailure = .next t ∧ recordedIn cause ia s t ∧ handledTo c s t ∧
      t.completed = s.completed := by
  have hrecorded := s.recordFailure_recordedIn cause ia
  have hframe := s.recordFailure_frame cause ia
  generalize s.recordFailure cause (some ia) = u at hrecorded hframe ⊢
  have hmsr : u.msr = s.msr := by rw [hframe]
  have htfhar : u.sprs.tfhar = s.sprs.tfhar := by rw [hrecorded.1]
  have hcompleted : u.completed = s.completed := by rw [hframe]
  obtain ⟨t, hhandle, hunder, htcompleted⟩ := State.handleFailure_handledUnder (u := u) (c := c) (by rw [hframe]; exact hc)
  obtain ⟨hhandled, hsprs⟩ := handledTo_of_handledUnder hunder (by rw [hframe]) (hmsr ▸ sameBitsBut_refl _ _) htfhar
  exact ⟨t, hhandle, recordedIn_congr hrecorded rfl rfl hsprs, hhandled, htcompleted.trans hcompleted⟩

/-- An abort in Transactional state records the failure and handles it at once (R210). -/
theorem State.abortIf_of_transactional {s : State} (hT : s.ts = tsT) (cause : Word32) :
    s.abortIf true cause =
      (State.recordFailure { s.setCr0State with completed := true } cause (some s.nia)).handleFailure := by
  have hactive : s.active = true := by rw [State.active, hT]; rfl
  exact (if_pos hactive).trans (if_pos hT)

/-- Settles O23: handling writes CR0 again, and the completion set before it stays (R300). -/
theorem abortTransactional : Obligations.AbortTransactional := by
  intro i s c hi husable hT hasked hc
  have hexec := (exec_abort_of_asked hi hasked).trans
    ((State.guardTm_of_usable husable _).trans (State.abortIf_of_transactional hT (abortCauseOf s i)))
  obtain ⟨t, hhandle, hrecorded, hhandled, hcompleted⟩ :=
    State.recordFailure_handleFailure_of_checkpoint (s := { s.setCr0State with completed := true }) hc (abortCauseOf s i) s.nia
  exact ⟨t, hexec.trans hhandle, recordedIn_congr hrecorded rfl rfl rfl, hhandled, hcompleted⟩

end Sys2Proof.Machine
end

section
/-!
PROOFS. tsr. and tcheck with the facility available (43_tm_suspend_check.md rules R220, R221).
-/

namespace Sys2Proof.Machine

theorem exec_tsr_of_usable {s : State} (h : s.tmUsable) (l : Bool) : exec (.tsr l) s = s.suspendOrResume l :=
  State.guardTm_of_usable h _

theorem exec_tcheck_of_usable {s : State} (h : s.tmUsable) (bf : BitVec 3) : exec (.tcheck bf) s = .next (s.check bf) :=
  State.guardTm_of_usable h _

/-! ### tsr. -/

/-- A suspend in Transactional state changes CR0 and TS; the transaction and the reservation stay (R220, R100). -/
theorem State.suspendOrResume_of_transactional {s : State} (hT : s.ts = tsT) :
    s.suspendOrResume false = .next (s.setCr0State.setTs tsS).complete := by
  unfold State.suspendOrResume
  exact (if_neg Bool.false_ne_true).trans (if_pos hT)

/-- A resume in Suspended state drops a reservation established in that state, before any handling that is owed (R220, R100, R180). -/
theorem State.suspendOrResume_of_suspended {s : State} (hS : s.ts = tsS) :
    s.suspendOrResume true =
      State.afterResume { (s.setCr0State.setTs tsT).complete with reservation := s.setCr0State.reservationOnResume } := by
  unfold State.suspendOrResume
  exact (if_pos rfl).trans (if_pos hS)

/-- A suspend outside Transactional state and a resume outside Suspended state leave TS alone (R220 corner cases a and b). -/
theorem State.suspendOrResume_of_unchanged {s : State} {l : Bool} (hsuspend : l = false → s.ts ≠ tsT) (hresume : l = true → s.ts ≠ tsS) :
    s.suspendOrResume l = .next s.setCr0State.complete := by
  unfold State.suspendOrResume
  cases l with
  | false => exact (if_neg Bool.false_ne_true).trans (if_neg (hsuspend rfl))
  | true => exact (if_pos rfl).trans (if_neg (hresume rfl))

theorem State.afterResume_of_not_owed {s : State} (h : s.tm.handleOnResume = false) : s.afterResume = .next s :=
  if_neg (by rw [h]; exact Bool.false_ne_true)

/-- Settles O25. -/
theorem tsrSuspends : Obligations.TsrSuspends := by
  intro s husable hT
  have hexec := (exec_tsr_of_usable husable false).trans (State.suspendOrResume_of_transactional hT)
  exact ⟨_, hexec, State.crFieldSet_setCr0State (by rw [hT]; rfl), msrTs_putTs _ _, sameBitsBut_putTs _ _, rfl⟩

/-- Settles O26. -/
theorem tsrResumes : Obligations.TsrResumes := by
  intro s husable hS howed
  have hexec := (exec_tsr_of_usable husable true).trans
    ((State.suspendOrResume_of_suspended hS).trans (State.afterResume_of_not_owed howed))
  exact ⟨_, hexec, State.crFieldSet_setCr0State (by rw [hS]; rfl), msrTs_putTs _ _, sameBitsBut_putTs _ _, rfl⟩

/-- Settles O28. -/
theorem tsrNoChange : Obligations.TsrNoChange := by
  intro l s husable hsuspend hresume
  have hexec := (exec_tsr_of_usable husable l).trans (State.suspendOrResume_of_unchanged hsuspend hresume)
  exact ⟨_, hexec, State.crFieldSet_setCr0State rfl, rfl⟩

/-! ### tcheck -/

/-- In Non-transactional state tcheck copies a free bit and leaves the facility (R54). -/
theorem State.check_of_nontransactional {s : State} (hN : s.ts = tsN) (bf : BitVec 3) :
    s.check bf = (s.tick.setCr bf (checkField (Config.freeBit s.draws) s.ts)).complete := if_pos hN

/-- The thread when tcheck has settled the conflicts on the locations it waits for (R221). -/
def State.settleAwaited (s : State) : State := s.settle (·.on s.tm.awaited)

/-- With a transaction active tcheck copies TDOOMED as the settled conflicts leave it (R221). -/
theorem State.check_of_active {s : State} (hN : s.ts ≠ tsN) (bf : BitVec 3) :
    s.check bf = (s.settleAwaited.setCr bf (checkField s.settleAwaited.tm.tdoomed s.ts)).complete := if_neg hN

theorem State.settleAwaited_tdoomed_of_doomed {s : State} (h : s.tm.tdoomed = true) : s.settleAwaited.tm.tdoomed = true := by
  obtain ⟨_, _, _, _, hsettle, hstays⟩ := s.settle_frame (·.on s.tm.awaited)
  rw [State.settleAwaited, hsettle]
  exact hstays h

theorem State.settleAwaited_tdoomed_of_certain {s : State}
    (h : ∃ l, l ∈ s.tm.latent ∧ l.on s.tm.awaited = true ∧ l.certain = true) : s.settleAwaited.tm.tdoomed = true := by
  obtain ⟨l, hl, hon, hcertain⟩ := h
  exact State.settle_tdoomed hl hon hcertain

theorem State.settleAwaited_of_none {s : State} (h : ∀ l, l ∈ s.tm.latent → l.on s.tm.awaited = false) : s.settleAwaited = s :=
  State.settle_of_none h

/-- What stays undetected after a settling is what it did not concern. -/
theorem State.mem_settle_latent {s : State} {p : Latent → Bool} {l : Latent} :
    l ∈ (s.settle p).tm.latent ↔ l ∈ s.tm.latent ∧ p l = false :=
  List.mem_filter.trans (and_congr_right' (by rw [Bool.not_eq_true']))

/-- A settling changes TDOOMED and the causes only (R221). -/
theorem State.settle_causesOnly (s : State) (p : Latent → Bool) : causesOnly s.tm (s.settle p).tm := rfl

/-- Settles O29: in Non-transactional state by the free bit that is copied, with a transaction active by the settling before the copy. -/
theorem tcheck : Obligations.Tcheck := by
  intro bf s husable
  have hexec := exec_tcheck_of_usable husable bf
  by_cases hN : s.ts = tsN
  · rw [State.check_of_nontransactional hN] at hexec
    exact ⟨_, _, hexec, fun h => absurd hN h, fun _ => rfl, rfl, crFieldSet_putCrField _ _ _, rfl⟩
  · rw [State.check_of_active hN] at hexec
    refine ⟨_, _, hexec, fun _ => ⟨rfl, State.settleAwaited_tdoomed_of_doomed, State.settleAwaited_tdoomed_of_certain,
      fun hnone => ?_, fun _ => State.mem_settle_latent⟩, fun h => absurd h hN, s.settle_causesOnly _, crFieldSet_putCrField _ _ _, rfl⟩
    exact congrArg (·.tm.tdoomed) (State.settleAwaited_of_none hnone)

end Sys2Proof.Machine
end

section
/-!
PROOFS. treclaim. and trechkpt. where they reclaim and rebuild a transaction (44_tm_privileged.md rules R231, R232).
-/

namespace Sys2Proof.Machine

/-- A privileged TM instruction passes both of its checks in privileged state with the facility available (R311, R201). -/
theorem State.guardPrivilegedTm_of_usable {s : State} (hpr : msrPr s.msr = false) (h : s.tmUsable) (body : Result) :
    s.guardLevel .privileged (s.guardTm body) = body :=
  (State.guardLevel_privileged hpr _).trans (State.guardTm_of_usable h body)

/-! ### treclaim. -/

/-- A reversion takes the registers from the checkpoint (R50), CR fields 1 to 7 and XER but for FXCC (R52, R27, R28). -/
theorem State.revert_revertedTo (s : State) (c : Checkpoint) : revertedTo c s (s.revert c) := by
  refine ⟨rfl, fun j hj => crField_putCrField_of_ne _ _ _ _ hj, fun k => ?_⟩
  by_cases hk : k < 64
  · exact bit_select _ _ _ _ hk
  · simp only [bit_of_ge _ _ (Nat.le_of_not_lt hk), ite_self]

/-- A reversion keeps CR0 (R27). -/
theorem State.revert_cr0 (s : State) (c : Checkpoint) : crField (s.revert c).cr 0 = crField s.cr 0 := crField_putCrField _ _ _

/-- A reclaim of the transaction that holds the checkpoint `c`, from the thread `u` in which the failure is recorded (R231). -/
theorem exec_treclaim_of_checkpoint {s : State} {c : Checkpoint} (hpr : msrPr s.msr = false) (husable : s.tmUsable) (hN : s.ts ≠ tsN)
    (hc : s.tm.checkpoint = some c) (ra : RegNum) :
    let u := s.setCr0State.recordFailure (codeOf s ra) (some s.nia)
    exec (.treclaim ra) s = .next (State.complete { (u.revert c).endTransaction.tick with
      reservation := if Config.freeBit s.draws then s.reservation else none }) := by
  refine (State.guardPrivilegedTm_of_usable hpr husable _).trans ((if_neg hN).trans ?_)
  unfold State.reclaim
  rw [hc, s.abortCause_eq]

/-- Settles O30: a recording changes none of what the reversion and the end of the transaction then read. -/
theorem treclaimReclaims : Obligations.TreclaimReclaims := by
  intro ra s c hpr husable hN hc
  have hexec := exec_treclaim_of_checkpoint hpr husable hN hc ra
  have hrecorded := s.setCr0State.recordFailure_recordedIn (codeOf s ra) s.nia
  have hframe := s.setCr0State.recordFailure_frame (codeOf s ra) s.nia
  dsimp only at hexec
  generalize s.setCr0State.recordFailure (codeOf s ra) (some s.nia) = u at hexec hrecorded hframe
  obtain ⟨hregs, hcr, hxer⟩ := u.revert_revertedTo c
  have hcr0 : crField u.cr 0 = stateField s.ts := by
    rw [hframe]
    exact (State.crFieldSet_setCr0State rfl).1
  have huxer : u.xer = s.xer := by rw [hframe]; rfl
  have humsr : u.msr = s.msr := by rw [hframe]; rfl
  refine ⟨_, hexec, recordedIn_congr hrecorded rfl rfl rfl, ⟨hregs, hcr, huxer ▸ hxer⟩, (u.revert_cr0 c).trans hcr0, msrTs_putTs _ _,
    humsr ▸ sameBitsBut_putTs _ _, noTransaction_idle, ite_eq_or_eq .., ?_⟩
  rw [hframe]
  rfl

/-! ### trechkpt. -/

/-- A recheckpoint outside a transaction, with a failure recorded, is not a TM Bad Thing (R232). -/
theorem exec_trechkpt_of_recorded {s : State} (hpr : msrPr s.msr = false) (husable : s.tmUsable) (hN : s.ts = tsN) (hfs : s.fs = true) :
    exec .trechkpt s = .next s.recheckpoint :=
  (State.guardPrivilegedTm_of_usable hpr husable _).trans (if_neg (by simp [hN, hfs]))

/-- Settles O31: the checkpoint is of the registers before CR0 is written. -/
theorem trechkptRebuilds : Obligations.TrechkptRebuilds := by
  intro s hpr husable hN hfs
  exact ⟨_, s.registersNow, exec_trechkpt_of_recorded hpr husable hN hfs, State.crFieldSet_setCr0State (by rw [hN]; rfl), msrTs_putTs _ _,
    sameBitsBut_putTs _ _, rfl, rfl, rfl, fun _ _ => rfl, ite_eq_or_eq .., rfl⟩

end Sys2Proof.Machine
end

section
/-!
PROOFS. mfspr and mtspr of SPR numbers that Figure 1 defines and of those it does not (45_spr_moves.md rules R240 to R242, R245).
-/

namespace Sys2Proof.Machine

variable {s : State} {n : Nat} {reg : Spr} {level : PrivLevel}

/-! ### mfspr of a defined number -/

/-- A number defined for mfspr is that of its register's row of Figure 1 (R46). -/
theorem mem_sprTable_of_mfsprRow (h : mfsprRow n = some (reg, level)) : ∃ row ∈ sprTable, row.num = n ∧ row.reg = reg := by
  obtain ⟨row, hrow, hmove⟩ := Option.bind_eq_some_iff.1 h
  obtain ⟨_, -, hpair⟩ := Option.map_eq_some_iff.1 hmove
  exact ⟨row, List.mem_of_find?_eq_some hrow, by simpa using List.find?_some hrow, congrArg Prod.fst hpair⟩

/-- TFIAR has the number 129 and no other (R46). -/
theorem num_eq_iff_of_mem_sprTable : ∀ row ∈ sprTable, row.num = 129 ↔ row.reg = .tfiar := by decide

theorem eq_tfiar_iff_of_mfsprRow (h : mfsprRow n = some (reg, level)) : n = 129 ↔ reg = .tfiar := by
  obtain ⟨row, hmem, rfl, rfl⟩ := mem_sprTable_of_mfsprRow h
  exact num_eq_iff_of_mem_sprTable row hmem

theorem tfiarVisible_iff (reader recorded : BitVec 2) :
    tfiarVisible reader recorded = true ↔ reader = 0b10 ∨ recorded = reader ∨ (reader = 0b00 ∧ recorded = 0b01) := by
  simp [tfiarVisible, or_assoc]

/-- Only a TFIAR that the reader may not see is hidden (R240). -/
theorem State.mfsprValue_of_visible (h : reg ≠ .tfiar ∨ tfiarVisible s.hvPr (s.sprs.tfiar.extractLsb' 0 2) = true) :
    s.mfsprValue reg = s.readSpr reg :=
  if_neg fun hhidden => by
    obtain ⟨hreg, hnot⟩ : reg = .tfiar ∧ tfiarVisible s.hvPr (s.sprs.tfiar.extractLsb' 0 2) = false := by simpa using hhidden
    exact h.elim (absurd hreg) (by simp [hnot])

theorem State.mfsprValue_of_hidden (hreg : reg = .tfiar) (h : ¬ tfiarVisible s.hvPr (s.sprs.tfiar.extractLsb' 0 2) = true) :
    s.mfsprValue reg = 0 := if_pos (by simpa [hreg] using h)

/-- mfspr passes both of its checks where the level suffices and a TM SPR has its facility (R240, R201). -/
theorem exec_mfspr_of_row (hrow : mfsprRow n = some (reg, level)) (hlevel : s.mayRun level = true) (htm : reg.isTm = true → s.tmUsable)
    (rt : RegNum) : exec (.mfspr rt n) s = .next (s.setGpr rt (s.mfsprValue reg)).complete := by
  show execMfspr rt n s = _
  unfold execMfspr
  rw [hrow]
  refine (State.guardLevel_of_mayRun hlevel _).trans ?_
  split
  · exact State.guardTm_of_usable (htm ‹_›) _
  · rfl

/-- Settles O33. -/
theorem mfsprReads : Obligations.MfsprReads := by
  intro rt n s reg level hrow hlevel htm
  have hvalue : (s.setGpr rt (s.mfsprValue reg)).complete.gpr rt = s.mfsprValue reg := s.gpr_setGpr rt _
  rw [← tfiarVisible_iff, ne_eq, eq_tfiar_iff_of_mfsprRow hrow]
  refine ⟨_, exec_mfspr_of_row hrow hlevel htm rt, fun hvisible => ?_, fun hhidden => ?_, fun q hq => s.gpr_setGpr_of_ne rt q _ hq, rfl⟩
  · exact hvalue.trans (State.mfsprValue_of_visible hvisible)
  · obtain ⟨hreg, hlow⟩ := not_or.1 hhidden
    exact hvalue.trans (State.mfsprValue_of_hidden (not_not.1 hreg) hlow)

/-! ### mtspr of a defined number -/

/-- A TM SPR is written outside a transaction, another register outside the speculative set not within one (R241, R245). -/
theorem State.moveToSpr_of_allowed (htm : reg.isTm = true → s.tmUsable ∧ s.ts = tsN)
    (hother : reg.isTm = false → s.ts = tsT → reg.isSpeculative = true) (v : Word) :
    s.moveToSpr reg v = .next (s.writeSpr v reg).complete := by
  unfold State.moveToSpr
  split
  case isTrue hreg =>
    obtain ⟨husable, hN⟩ := htm hreg
    exact (State.guardTm_of_usable husable _).trans (if_pos hN)
  case isFalse hreg =>
    have hspeculative := hother (Bool.eq_false_iff.2 hreg)
    exact if_neg (by simpa using hspeculative)

theorem exec_mtspr_of_row (hrow : mtsprRow n = some (reg, level)) (hlevel : s.mayRun level = true) (rs : RegNum) :
    exec (.mtspr n rs) s = s.moveToSpr reg (s.gpr rs) := by
  show execMtspr n rs s = _
  unfold execMtspr
  rw [hrow]
  exact State.guardLevel_of_mayRun hlevel _

/-- A write of a special purpose register leaves the address of the instruction (R241). -/
theorem State.writeSpr_nia (s : State) (v : Word) (reg : Spr) : (s.writeSpr v reg).nia = s.nia := by rw [s.writeSpr_frame v reg]

/-- Settles O34. -/
theorem mtsprWrites : Obligations.MtsprWrites := by
  intro n rs s reg level hrow hlevel htm hother
  rw [exec_mtspr_of_row hrow hlevel, State.moveToSpr_of_allowed htm hother, State.complete, State.writeSpr_nia]

/-! ### Numbers that are not defined -/

/-- `spr0` is the bit of value 16 (R242). -/
theorem spr0_iff (n : Nat) : spr0 n = true ↔ n / 16 % 2 = 1 := by
  simp [spr0, Nat.testBit_eq_decide_div_mod_eq]

theorem spr0_eq_false_iff (n : Nat) : spr0 n = false ↔ n / 16 % 2 = 0 := by
  rw [← Bool.not_eq_true, spr0_iff, Nat.mod_two_not_eq_one]

/-- What a move of an undefined number does, a clause for each case of R242. -/
theorem State.undefinedSpr_cases (s : State) (n : Nat) :
    (n / 16 % 2 = 1 → msrPr s.msr = true → s.undefinedSpr n = s.privilegedInstruction) ∧
    (n / 16 % 2 = 0 → msrPr s.msr = true ∨ n = 0 → s.undefinedSpr n = s.emulationAssistance) ∧
    (msrPr s.msr = false → n ≠ 0 → s.undefinedSpr n = s.complete) := by
  unfold State.undefinedSpr
  refine ⟨fun hbit hpr => ?_, fun hbit hproblem => ?_, fun hpr hn => ?_⟩
  · rw [if_pos ((spr0_iff n).2 hbit), if_pos hpr]
  · rw [(spr0_eq_false_iff n).2 hbit, if_neg Bool.false_ne_true, if_pos (by simpa using hproblem)]
  · simp [hpr, hn]

theorem exec_mfspr_of_undefined (hrow : mfsprRow n = none) (s : State) (rt : RegNum) : exec (.mfspr rt n) s = .next (s.undefinedSpr n) := by
  show execMfspr rt n s = _
  unfold execMfspr
  rw [hrow]

theorem exec_mtspr_of_undefined (hrow : mtsprRow n = none) (s : State) (rs : RegNum) : exec (.mtspr n rs) s = s.moveToUndefinedSpr n := by
  show execMtspr n rs s = _
  unfold execMtspr
  rw [hrow]

/-- Outside a transaction, and for the Privileged Instruction interrupt in every state, mtspr follows the cases of R242 (R167, R321). -/
theorem State.moveToUndefinedSpr_of_not_failing (h : s.ts ≠ tsT ∨ n / 16 % 2 = 1 ∧ msrPr s.msr = true) :
    s.moveToUndefinedSpr n = .next (s.undefinedSpr n) := by
  rw [← spr0_iff] at h
  rcases h with hts | ⟨hbit, hpr⟩
  · exact if_neg (by simp [hts])
  · exact if_neg (by simp [hbit, hpr])

/-- In Transactional state every other mtspr of an undefined number is a disallowed access (R163). -/
theorem State.moveToUndefinedSpr_of_failing (hT : s.ts = tsT) (h : ¬ (n / 16 % 2 = 1 ∧ msrPr s.msr = true)) :
    s.moveToUndefinedSpr n = s.failDisallowed := by
  rw [← spr0_iff, and_comm, not_and_or] at h
  exact if_pos (by simpa [hT] using h)

/-- Settles O37. -/
theorem undefinedSpr : Obligations.UndefinedSpr := by
  intro n r s _
  obtain ⟨hprivileged, hemulation, hnoop⟩ := s.undefinedSpr_cases n
  refine ⟨fun hrow => ?_, fun hrow => ?_⟩
  · rw [exec_mfspr_of_undefined hrow]
    exact ⟨fun hbit hpr => congrArg _ (hprivileged hbit hpr), fun hbit hproblem => congrArg _ (hemulation hbit hproblem),
      fun hpr hn => congrArg _ (hnoop hpr hn)⟩
  · rw [exec_mtspr_of_undefined hrow]
    refine ⟨fun hbit hpr => ?_, fun hts => ?_, fun hT hnot c hc => ?_⟩
    · rw [State.moveToUndefinedSpr_of_not_failing (.inr ⟨hbit, hpr⟩), hprivileged hbit hpr]
    · rw [State.moveToUndefinedSpr_of_not_failing (.inl hts)]
      exact ⟨fun hbit hproblem => congrArg _ (hemulation hbit hproblem), fun hpr hn => congrArg _ (hnoop hpr hn)⟩
    · rw [State.moveToUndefinedSpr_of_failing hT hnot]
      exact State.failNotExecuted_of_checkpoint hc _

end Sys2Proof.Machine
end

section
/-!
PROOFS. Table 2, and what rfid, hrfid and mtmsrd do outside Transactional state where no handling runs (46_msr_linkage.md rules R250 to R254
and R256).
-/

namespace Sys2Proof.Machine

/-! ### Table 2 -/

/-- From Non-transactional state Table 2 allows the inputs N0 and N1 (R250). -/
theorem table2Allows_iff_of_nontransactional : ∀ cur inp : BitVec 3, cur.extractLsb' 1 2 = tsN →
    (table2Allows cur inp ↔ inp.extractLsb' 1 2 = tsN) := by
  unfold table2Allows
  decide

/-- From Suspended state it allows T1, S0 and S1, and from S0 the suppressed input N0 (R250). -/
theorem table2Allows_iff_of_suspended : ∀ cur inp : BitVec 3, cur.extractLsb' 1 2 = tsS →
    (table2Allows cur inp ↔ (cur = 0b010 ∧ inp = 0b000) ∨ inp = 0b101 ∨ inp.extractLsb' 1 2 = tsS) := by
  unfold table2Allows
  decide

/-- From no other state does it allow anything. -/
theorem nontransactional_or_suspended_of_table2Allows : ∀ cur inp : BitVec 3, table2Allows cur inp →
    cur.extractLsb' 1 2 = tsN ∨ cur.extractLsb' 1 2 = tsS := by
  unfold table2Allows
  decide

/-- The pair (S0, N0) is kept; every other input is written if Table 2 allows it (R251). -/
theorem tmTransition_write_or_badThing {cur inp : BitVec 3} (hkept : ¬ (cur = 0b010 ∧ inp = 0b000)) :
    (table2Allows cur inp → tmTransition cur inp = .write inp) ∧ (¬ table2Allows cur inp → tmTransition cur inp = .badThing) := by
  have hlegal : (if cur.extractLsb' 1 2 = tsN then inp.extractLsb' 1 2 == tsN
      else if cur.extractLsb' 1 2 = tsS then inp == 0b101 || inp.extractLsb' 1 2 == tsS else false) = true ↔ table2Allows cur inp := by
    split_ifs with hN hS
    · rw [beq_iff_eq, table2Allows_iff_of_nontransactional cur inp hN]
    · rw [Bool.or_eq_true, beq_iff_eq, beq_iff_eq, table2Allows_iff_of_suspended cur inp hS, or_iff_right hkept]
    · exact iff_of_false not_false fun h => (nontransactional_or_suspended_of_table2Allows cur inp h).elim hN hS
  unfold tmTransition
  rw [if_neg (by simpa using hkept)]
  exact ⟨fun h => if_pos (hlegal.2 h), fun h => if_neg (mt hlegal.1 h)⟩

/-- A transition is a TM Bad Thing exactly where Table 2 does not allow it (R250, R251). -/
theorem tmTransition_eq_badThing_iff (cur inp : BitVec 3) : tmTransition cur inp = .badThing ↔ ¬ table2Allows cur inp := by
  by_cases hkept : cur = 0b010 ∧ inp = 0b000
  · obtain ⟨rfl, rfl⟩ := hkept
    unfold table2Allows
    decide
  · obtain ⟨hwrite, hbad⟩ := tmTransition_write_or_badThing hkept
    refine ⟨fun hbadThing hallows => ?_, hbad⟩
    rw [hwrite hallows] at hbadThing
    cases hbadThing

/-- Settles O39. -/
theorem table2 : Obligations.Table2 := by
  intro cur inp _ _ _ _
  refine ⟨?_, fun hallows hkept => (tmTransition_write_or_badThing hkept).1 hallows, (tmTransition_eq_badThing_iff cur inp).2⟩
  rintro ⟨rfl, rfl⟩
  rfl

/-! ### The MSR that an allowed transition leaves -/

theorem putTsTm_msrTsTm (m : Word) : putTsTm m (msrTsTm m) = m := by
  apply eq_of_bit_eq
  intro k hk
  rw [putTsTm, bit_putField _ _ _ _ _ hk]
  split_ifs with hfield
  · rw [msrTsTm, BitVec.getLsbD_extractLsb', decide_eq_true (by omega), Bool.true_and, bit_eq_getLsbD _ _ hk,
      Nat.add_sub_cancel' hfield.1]
  · rfl

/-- An allowed transition puts the result of Table 2 into the loaded MSR, which has `TS || TM` as it was: the suppressed pair keeps that, every
other pair writes the input. -/
theorem Transition.applyTo_of_table2Allows {cur inp : BitVec 3} {loaded : Word} (hallows : table2Allows cur inp)
    (hloaded : msrTsTm loaded = cur) : (tmTransition cur inp).applyTo loaded = putTsTm loaded (table2Result cur inp) := by
  unfold table2Result
  split_ifs with hkept
  · obtain ⟨rfl, rfl⟩ := hkept
    rw [← hloaded, putTsTm_msrTsTm, hloaded]
    rfl
  · rw [(tmTransition_write_or_badThing hkept).1 hallows]
    rfl

/-- What Table 2 leaves is Non-transactional, or Suspended or Transactional, as the thread was outside a transaction or in one; and Transactional
state is entered from Suspended state by the input T1 only (R250). -/
theorem table2Result_ts : ∀ cur inp : BitVec 3, table2Allows cur inp →
    (((table2Result cur inp).extractLsb' 1 2 = tsT ∨ (table2Result cur inp).extractLsb' 1 2 = tsS) ↔ cur.extractLsb' 1 2 ≠ tsN) ∧
      ((table2Result cur inp).extractLsb' 1 2 = tsT → cur.extractLsb' 1 2 = tsS ∧ inp.extractLsb' 1 2 = tsT) := by
  unfold table2Allows table2Result
  decide

/-- The PCR's condition of R256 on the MSR an allowed transition would leave is one on the image and the thread's state. -/
theorem State.pcrBadThing_iff_of_allowed {s : State} {image m : Word} (hallows : table2Allows (msrTsTm s.msr) (msrTsTm image))
    (hm : msrTs m = (table2Result (msrTsTm s.msr) (msrTsTm image)).extractLsb' 1 2) (hpr : bit m 49 = bit image 49) :
    s.pcrBadThing m = true ↔ pcrForbids s image := by
  have hactive := (table2Result_ts _ _ hallows).1
  rw [← hm, ← msrTs_eq] at hactive
  unfold State.pcrBadThing pcrForbids msrPr State.ts
  rw [hpr, ← hactive]
  simp only [Bool.and_eq_true, Bool.or_eq_true, beq_iff_eq, and_assoc]

/-! ### A return that completes -/

/-- The thread after a return that completes: the MSR `m`, the next instruction at `a`, and the reservation of R100. -/
def State.returned (s : State) (m a : Word) (traced : Bool) : State :=
  { s with
    msr := m, nia := a, completed := traced
    reservation := if msrTs m = tsT then s.reservationOnResume else s.reservation }

theorem State.returnedTo_returned (s : State) (m a : Word) (traced : Bool) : returnedTo s (s.returned m a traced) := rfl

/-- What rfid, hrfid and mtmsrd L=0 share where they complete. The conditions are those of R251, R256, R252 (a Floating-Point Enabled Exception)
and R180. -/
theorem State.loadMsr_of_allowed {s : State} {image loaded m : Word}
    (hm : m = putTsTm loaded (table2Result (msrTsTm s.msr) (msrTsTm image))) (hallows : table2Allows (msrTsTm s.msr) (msrTsTm image))
    (hpcr : ¬ pcrForbids s image) (hfp : ¬ fpArises s image) (howed : s.tm.handleOnResume = true → msrTs image ≠ tsT)
    (hloaded : msrTsTm loaded = msrTsTm s.msr) (hbits : bitsFrom [49, 52, 55] image m) (next : Word → Word) (traced : Bool) :
    s.loadMsr image loaded next traced = .next (s.returned m (next m) traced) := by
  have hcases := State.loadMsr_cases (rfl : s.loadMsr image loaded next traced = _)
  dsimp only at hcases
  rw [Transition.applyTo_of_table2Allows hallows hloaded, ← hm] at hcases
  have htransition : tmTransition (msrTsTm s.msr) (msrTsTm image) ≠ .badThing := fun h =>
    (tmTransition_eq_badThing_iff _ _).1 h hallows
  have hresumes := (table2Result_ts _ _ hallows).2
  have hts : msrTs m = (table2Result (msrTsTm s.msr) (msrTsTm image)).extractLsb' 1 2 := hm ▸ msrTs_putTsTm _ _
  have hbad : s.pcrBadThing m ≠ true := fun h =>
    hpcr ((State.pcrBadThing_iff_of_allowed hallows hts (hbits 49 (by decide))).1 h)
  have hnofp := State.fpEnabledBy_of_not_arises (hbits 52 (by decide)) (hbits 55 (by decide)) hfp
  rw [← hts, ← msrTs_eq, ← msrTs_eq] at hresumes
  have hresume : (s.ts == tsS && msrTs m == tsT) = true ↔ msrTs m = tsT := by
    rw [Bool.and_eq_true, beq_iff_eq, beq_iff_eq]
    exact and_iff_right_of_imp fun h => (hresumes h).1
  have hnotOwed : ¬ (s.ts == tsS && msrTs m == tsT && s.tm.handleOnResume) = true := fun h =>
    howed (Bool.and_eq_true_iff.1 h).2 (hresumes (hresume.1 (Bool.and_eq_true_iff.1 h).1)).2
  rw [if_neg hnotOwed, if_congr hresume rfl rfl] at hcases
  rcases hcases with ⟨h | h, -⟩ | ⟨-, -, ⟨h, -⟩ | ⟨-, h, e⟩ | ⟨-, -, e⟩⟩
  · exact absurd h htransition
  · exact absurd h hbad
  · exact absurd h (Bool.eq_false_iff.1 hnofp)
  · rw [h, Bool.true_and, Bool.not_eq_true] at hnotOwed
    exact e.trans (State.afterResume_of_not_owed hnotOwed)
  · exact e

/-! ### The three instructions outside Transactional state -/

theorem bitsFrom_of_subset {ks js : List Nat} {image m : Word} (h : bitsFrom ks image m) (hjs : ∀ k ∈ js, k ∈ ks) : bitsFrom js image m :=
  fun k hk => h k (hjs k hk)

theorem State.guardReturn_of_not_transactional {s : State} (hT : s.ts ≠ tsT) {level : PrivLevel} (hlevel : s.mayRun level = true)
    (body : Result) : s.guardLevel level (s.unlessTransactional body) = body := by
  rw [State.guardLevel_of_mayRun hlevel, State.unlessTransactional, if_neg hT]

theorem State.mayRun_privileged {s : State} (h : msrPr s.msr = false) : s.mayRun .privileged = true := by rw [State.mayRun, h]; rfl

theorem exec_rfid_of_privileged {s : State} (hT : s.ts ≠ tsT) (hpr : msrPr s.msr = false) :
    exec .rfid s = s.loadMsr s.sprs.srr1 (rfidMsr s.msr s.sprs.srr1) (fun m => returnAddress m s.sprs.srr0) false :=
  State.guardReturn_of_not_transactional hT (State.mayRun_privileged hpr) _

theorem exec_hrfid_of_hypervisor {s : State} (hT : s.ts ≠ tsT) (hhv : s.hypervisorState = true) :
    exec .hrfid s =
      s.loadMsr s.sprs.hsrr1 (loadMsrBits hrfidMask s.msr s.sprs.hsrr1) (fun m => returnAddress m s.sprs.hsrr0) false :=
  State.guardReturn_of_not_transactional (level := .hypervisor) hT hhv _

theorem exec_mtmsrd_of_privileged {s : State} (hT : s.ts ≠ tsT) (hpr : msrPr s.msr = false) (rs : RegNum) :
    exec (.mtmsrd rs false) s = s.loadMsr (s.gpr rs) (loadMsrBits mtmsrdMask s.msr (s.gpr rs)) (fun _ => s.nia + 4) true :=
  State.guardReturn_of_not_transactional hT (State.mayRun_privileged hpr) _

theorem exec_mtmsrd_one_of_privileged {s : State} (hT : s.ts ≠ tsT) (hpr : msrPr s.msr = false) (rs : RegNum) :
    exec (.mtmsrd rs true) s = .next { s with msr := select mtmsrdLMask (s.gpr rs) s.msr }.complete :=
  State.guardReturn_of_not_transactional hT (State.mayRun_privileged hpr) _

theorem wordAlign_eq_shift (a : Word) : wordAlign a = a >>> 2 <<< 2 := by
  apply BitVec.eq_of_getLsbD_eq
  intro k hk
  rw [wordAlign_getLsbD _ _ hk, BitVec.getLsbD_shiftLeft, BitVec.getLsbD_ushiftRight, decide_eq_true hk, Bool.true_and]
  by_cases hlow : k < 2
  · simp [hlow]
  · simp [hlow, Nat.add_sub_cancel' (Nat.le_of_not_lt hlow)]

theorem wordAlign_toNat (a : Word) : (wordAlign a).toNat = a.toNat / 4 * 4 := by
  have hlt := a.isLt
  rw [wordAlign_eq_shift, BitVec.toNat_shiftLeft, BitVec.toNat_ushiftRight, Nat.shiftRight_eq_div_pow, Nat.shiftLeft_eq]
  omega

/-- The address under a new MSR is the one `<-iea` gives (R252). -/
theorem ieaOf_returnAddress (m address : Word) : ieaOf address m (returnAddress m address) := by
  unfold returnAddress msrSf
  refine ⟨fun h64 => ?_, fun h32 => ?_⟩
  · rw [if_pos h64, wordAlign_toNat]
  · rw [if_neg (by rw [h32]; exact Bool.false_ne_true), low32, BitVec.toNat_setWidth, BitVec.toNat_setWidth, wordAlign_toNat]
    omega

/-- Settles O40. -/
theorem rfidReturns : Obligations.RfidReturns := by
  intro s hpr hT hallows hpcr hfp howed
  have hloaded := rfidLoaded_putTsTm s (table2Result (msrTsTm s.msr) (msrTsTm s.sprs.srr1))
  have hexec := (exec_rfid_of_privileged hT hpr).trans
    (State.loadMsr_of_allowed rfl hallows hpcr hfp howed (msrTsTm_rfidMsr _ _) (bitsFrom_of_subset hloaded.1 (by decide)) _ _)
  exact ⟨_, hexec, State.returnedTo_returned _ _ _ _, rfl, msrTsTm_putTsTm _ _, hloaded, ieaOf_returnAddress _ _⟩

/-- Settles O41. -/
theorem hrfidReturns : Obligations.HrfidReturns := by
  intro s hhv hT hallows hpcr hfp howed
  have hloaded := hrfidLoaded_putTsTm s (table2Result (msrTsTm s.msr) (msrTsTm s.sprs.hsrr1))
  have hexec := (exec_hrfid_of_hypervisor hT hhv).trans
    (State.loadMsr_of_allowed rfl hallows hpcr hfp howed (msrTsTm_loadMsrBits (by decide) _ _)
      (bitsFrom_of_subset hloaded.1 (by decide)) _ _)
  exact ⟨_, hexec, State.returnedTo_returned _ _ _ _, rfl, msrTsTm_putTsTm _ _, hloaded, ieaOf_returnAddress _ _⟩

/-- Settles O42. -/
theorem mtmsrdLoads : Obligations.MtmsrdLoads := by
  intro rs s hpr hT hallows hpcr hfp howed
  have hloaded := mtmsrdLoaded_putTsTm rs s (table2Result (msrTsTm s.msr) (msrTsTm (s.gpr rs)))
  have hexec := (exec_mtmsrd_of_privileged hT hpr rs).trans
    (State.loadMsr_of_allowed rfl hallows hpcr hfp howed (msrTsTm_loadMsrBits (by decide) _ _)
      (bitsFrom_of_subset hloaded.1 (by decide)) _ _)
  exact ⟨_, hexec, State.returnedTo_returned _ _ _ _, rfl, rfl, msrTsTm_putTsTm _ _, hloaded⟩

/-! ### mtmsrd L=1 -/

theorem bit_mtmsrdLMask : ∀ k, k < 64 → bit mtmsrdLMask k = decide (k ∈ [48, 62]) := by decide

/-- Settles O43. -/
theorem mtmsrdOne : Obligations.MtmsrdOne := by
  intro rs s hpr hT
  have hmask {k : Nat} (hk : k < 64) :
      bit (select mtmsrdLMask (s.gpr rs) s.msr) k = if k ∈ [48, 62] then bit (s.gpr rs) k else bit s.msr k := by
    simp only [bit_select _ _ _ _ hk, bit_mtmsrdLMask k hk, decide_eq_true_eq]
  refine ⟨_, exec_mtmsrd_one_of_privileged hT hpr rs, fun k hk => ?_, fun k hk => ?_, rfl⟩
  · have hlt : ∀ j ∈ [48, 62], j < 64 := by decide
    exact (hmask (hlt k hk)).trans (if_pos hk)
  · rcases Nat.lt_or_ge k 64 with hlt | hge
    · exact (hmask hlt).trans (if_neg hk)
    · exact (bit_of_ge _ _ hge).trans (bit_of_ge _ _ hge).symm

/-! ### A return that is a TM Bad Thing -/

/-- What the three share where Table 2 or the PCR forbids the transition (R251, R256). -/
theorem State.loadMsr_of_forbidden {s : State} {image loaded : Word}
    (h : ¬ table2Allows (msrTsTm s.msr) (msrTsTm image) ∨ pcrForbids s image) (hloaded : msrTsTm loaded = msrTsTm s.msr)
    (hbits : bitsFrom [49] image (putTsTm loaded (table2Result (msrTsTm s.msr) (msrTsTm image)))) (next : Word → Word) (traced : Bool) :
    s.loadMsr image loaded next traced = .next s.tmBadThing := by
  refine if_pos ?_
  rw [Bool.or_eq_true, decide_eq_true_eq]
  by_cases hallows : table2Allows (msrTsTm s.msr) (msrTsTm image)
  · right
    rw [Transition.applyTo_of_table2Allows hallows hloaded]
    exact (State.pcrBadThing_iff_of_allowed hallows (msrTs_putTsTm _ _) (hbits 49 (by decide))).2 (h.resolve_left (not_not_intro hallows))
  · exact .inl ((tmTransition_eq_badThing_iff _ _).2 hallows)

/-- Settles O44: each of the three copies the image's PR bit, and then all is `State.loadMsr_of_forbidden`. -/
theorem returnBadThing : Obligations.ReturnBadThing := by
  intro s hts
  have hT : s.ts ≠ tsT := by rcases hts with h | h <;> rw [h] <;> decide
  refine ⟨fun hpr h => ?_, fun hhv h => ?_, fun hpr rs h => ?_⟩
  · rw [exec_rfid_of_privileged hT hpr]
    exact State.loadMsr_of_forbidden h (msrTsTm_rfidMsr _ _) (bitsFrom_of_subset (rfidLoaded_putTsTm s _).1 (by decide)) _ _
  · rw [exec_hrfid_of_hypervisor hT hhv]
    exact State.loadMsr_of_forbidden h (msrTsTm_loadMsrBits (by decide) _ _)
      (bitsFrom_of_subset (hrfidLoaded_putTsTm s _).1 (by decide)) _ _
  · rw [exec_mtmsrd_of_privileged hT hpr rs]
    exact State.loadMsr_of_forbidden h (msrTsTm_loadMsrBits (by decide) _ _)
      (bitsFrom_of_subset (mtmsrdLoaded_putTsTm rs s _).1 (by decide)) _ _

end Sys2Proof.Machine
end

section
/-!
PROOFS. Power-saving mode (O46, O47): what the four instructions leave, what a level keeps, and the asynchronous interrupt that ends it.
-/

namespace Sys2Proof.Machine

/-! ### Entering a level -/

theorem State.enterPowerSaving_of_hypervisor {s : State} (hhv : s.hypervisorState = true) (hN : s.ts = tsN) (level : PowerLevel) :
    s.enterPowerSaving level = .next { s with power := level, nia := s.nia + 4, completed := false } := by
  have hT : s.ts ≠ tsT := by rw [hN]; decide
  have hS : s.ts ≠ tsS := by rw [hN]; decide
  unfold State.enterPowerSaving
  rw [State.guardLevel_of_mayRun (level := .hypervisor) hhv, if_neg hT, if_neg hS]
  rfl

/-- Settles O46. -/
theorem powerSavingEntered : Obligations.PowerSavingEntered := by
  intro s hhv hN
  have henter := State.enterPowerSaving_of_hypervisor hhv hN
  exact ⟨henter .doze, henter .nap, henter .sleep, henter .rvwinkle⟩

/-! ### What a level keeps -/

/-- The interrupts that lose no state beyond what the level has lost (R270). -/
theorem AsyncInterrupt.mayLoseState_eq_false {i : AsyncInterrupt} (hsr : i ≠ .systemReset) (hmc : i ≠ .machineCheck)
    (hhm : i ≠ .hypervisorMaintenance) : i.mayLoseState = false := by
  cases i with
  | systemReset => exact absurd rfl hsr
  | machineCheck => exact absurd rfl hmc
  | hypervisorMaintenance => exact absurd rfl hhm
  | external | decrementer | hypervisorDecrementer | performanceMonitor => rfl

theorem State.afterPowerSaving_of_not_mayLoseState {i : AsyncInterrupt} (h : i.mayLoseState = false) (s : State) :
    s.afterPowerSaving i = s.tick.afterLevel := by
  unfold State.afterPowerSaving
  rw [h]
  rfl

/-- What is no register of the thread, and the transaction state, of which no power-saving level loses anything (R270, U8). -/
structure KeptAsleep (s u : State) : Prop where
  mem : u.mem = s.mem
  pages : u.pages = s.pages
  tm : u.tm = s.tm
  pendingInterrupts : u.pendingInterrupts = s.pendingInterrupts
  ts : u.ts = s.ts

theorem KeptAsleep.of_tick {s u : State} (h : KeptAsleep s.tick u) : KeptAsleep s u :=
  ⟨h.mem, h.pages, h.tm, h.pendingInterrupts, h.ts⟩

theorem State.loseRegisters_ts (s : State) : s.loseRegisters.ts = s.ts := msrTs_putTs _ _

theorem State.loseAll_keptAsleep (s : State) : KeptAsleep s s.loseAll := ⟨rfl, rfl, rfl, rfl, s.loseRegisters_ts⟩

theorem State.afterLevel_keptAsleep (s : State) : KeptAsleep s s.afterLevel := by
  unfold State.afterLevel
  cases s.power with
  | running | doze => exact ⟨rfl, rfl, rfl, rfl, rfl⟩
  | nap | sleep | rvwinkle => exact ⟨rfl, rfl, rfl, rfl, s.loseRegisters_ts⟩

theorem State.afterPowerSaving_keptAsleep (s : State) (i : AsyncInterrupt) : KeptAsleep s (s.afterPowerSaving i) := by
  unfold State.afterPowerSaving
  split
  · exact s.tick.loseAll_keptAsleep.of_tick
  · exact s.tick.afterLevel_keptAsleep.of_tick

theorem State.afterLevel_of_doze {s : State} (h : s.power = .doze) : s.afterLevel = s := by
  unfold State.afterLevel
  rw [h]

theorem State.afterLevel_of_nap {s : State} (h : s.power = .nap) :
    s.afterLevel = { s.loseRegisters with sprs := napSprs s.sprs (Config.lostSprs s.draws) } := by
  unfold State.afterLevel
  rw [h]

/-- Every level keeps the HRMOR (R271 to R274). -/
theorem State.afterLevel_hrmor (s : State) : s.afterLevel.sprs.hrmor = s.sprs.hrmor := by
  unfold State.afterLevel
  cases s.power <;> rfl

/-! ### The interrupt that ends a level -/

@[simp] theorem State.takeAsync_hrmor (s : State) (i : AsyncInterrupt) : (s.takeAsync i).sprs.hrmor = s.sprs.hrmor := by
  rw [State.takeAsync_sprs]

/-- An interrupt that saves into SRR0 and SRR1 leaves HSRR0 and HSRR1 (R291). -/
theorem State.takeAsync_hsrr {s : State} {i : AsyncInterrupt} (h : s.usesHsrr i.kind = false) :
    (s.takeAsync i).sprs.hsrr0 = s.sprs.hsrr0 ∧ (s.takeAsync i).sprs.hsrr1 = s.sprs.hsrr1 := by
  unfold State.takeAsync State.freeStatusInterrupt
  rw [State.takeInterrupt_sprs]
  exact ⟨if_neg (ne_true_of_eq_false h), if_neg (ne_true_of_eq_false h)⟩

/-- Where an interrupt saves depends on the control bits only (R291). -/
theorem State.usesHsrr_congr {s u : State} (h : u.controls = s.controls) (k : InterruptKind) : u.usesHsrr k = s.usesHsrr k := by
  cases k with
  | external => exact congrArg (fun c : Controls => !c.lpes0) h
  | _ => rfl

theorem State.powerSavingStep_of_none {s : State} (h : s.nextInterrupt = none) :
    s.powerSavingStep = { s with completed := false } := by
  unfold State.powerSavingStep
  rw [h]

theorem State.powerSavingStep_of_some {s : State} {i : AsyncInterrupt} (h : s.nextInterrupt = some i) :
    s.powerSavingStep = { (s.afterPowerSaving i).takeAsync i with power := .running } := by
  unfold State.powerSavingStep
  rw [h]

/-- After nap the hypervisor resources are those from before it, whatever an interrupt writes to the four save registers (R272). -/
theorem sprs_eq_of_napSprs {after kept lost : SprFile} {srr0 srr1 hsrr0 hsrr1 : Word}
    (h : after = { napSprs kept lost with srr0 := srr0, srr1 := srr1, hsrr0 := hsrr0, hsrr1 := hsrr1 }) :
    after = { after with
      dec := kept.dec, sdr1 := kept.sdr1, tb := kept.tb, ear := kept.ear, hsprg0 := kept.hsprg0, hsprg1 := kept.hsprg1
      hdsisr := kept.hdsisr, hdar := kept.hdar, spurr := kept.spurr, purr := kept.purr, hdec := kept.hdec
      rmor := kept.rmor, hrmor := kept.hrmor, lpcr := kept.lpcr, lpidr := kept.lpidr, hmer := kept.hmer
      hmeer := kept.hmeer, pcr := kept.pcr, heir := kept.heir, amor := kept.amor, dabr := kept.dabr, dabrx := kept.dabrx } := by
  subst h
  rfl

section
variable {s : State} {i : AsyncInterrupt} (hpending : s.nextInterrupt = some i)
include hpending

/-- Every exit keeps what is no register of the thread, but for the interrupt it takes (R270, R331). -/
theorem State.powerSavingStep_keeps :
    s.powerSavingStep.power = .running ∧ s.powerSavingStep.pendingInterrupts = s.pendingInterrupts.erase i ∧
      s.powerSavingStep.mem = s.mem ∧ s.powerSavingStep.pages = s.pages ∧ s.powerSavingStep.tm = s.tm ∧
      (s.ts = tsN → s.powerSavingStep.ts = tsN) := by
  obtain ⟨hmem, hpages, htm, hlist, hts⟩ := s.afterPowerSaving_keptAsleep i
  rw [State.powerSavingStep_of_some hpending]
  have hentry : (s.afterPowerSaving i).ts = tsN → ((s.afterPowerSaving i).takeAsync i).ts = tsN := by
    rw [State.takeAsync_ts, interruptTs_eq_tsN_iff]
    exact id
  exact ⟨rfl, congrArg (List.erase · i) hlist, hmem, hpages, htm, fun hN => hentry (hts.trans hN)⟩

variable (hkept : i.mayLoseState = false)
include hkept

theorem State.powerSavingStep_of_not_mayLoseState :
    s.powerSavingStep = { s.tick.afterLevel.takeAsync i with power := .running } := by
  rw [State.powerSavingStep_of_some hpending, State.afterPowerSaving_of_not_mayLoseState hkept]

theorem State.powerSavingStep_hrmor : s.powerSavingStep.sprs.hrmor = s.sprs.hrmor := by
  rw [State.powerSavingStep_of_not_mayLoseState hpending hkept]
  exact (State.takeAsync_hrmor _ _).trans s.tick.afterLevel_hrmor

/-- The exit from doze changes what interrupt entry writes (R271). -/
theorem State.powerSavingStep_of_doze (hdoze : s.power = .doze) :
    s.powerSavingStep = { s with
      power := .running, pendingInterrupts := s.powerSavingStep.pendingInterrupts, msr := s.powerSavingStep.msr
      nia := s.powerSavingStep.nia, draws := s.powerSavingStep.draws, completed := false
      sprs := { s.sprs with
        srr0 := s.powerSavingStep.sprs.srr0, srr1 := s.powerSavingStep.sprs.srr1
        hsrr0 := s.powerSavingStep.sprs.hsrr0, hsrr1 := s.powerSavingStep.sprs.hsrr1 } } := by
  have hstep := State.powerSavingStep_of_not_mayLoseState hpending hkept
  rw [State.afterLevel_of_doze (s := s.tick) hdoze] at hstep
  rw [hstep]
  exact congrArg (fun p => { s.tick.takeAsync i with power := .running, sprs := p }) (s.tick.takeAsync_sprs i)

/-- The exit from nap finds the control bits and the hypervisor resources from before it; interrupt entry writes save registers only (R272). -/
theorem State.powerSavingStep_of_nap (hnap : s.power = .nap) :
    s.powerSavingStep.controls = s.controls ∧
      s.powerSavingStep.sprs = { napSprs s.sprs (Config.lostSprs (s.draws + 1)) with
        srr0 := s.powerSavingStep.sprs.srr0, srr1 := s.powerSavingStep.sprs.srr1
        hsrr0 := s.powerSavingStep.sprs.hsrr0, hsrr1 := s.powerSavingStep.sprs.hsrr1 } ∧
      (s.usesHsrr i.kind = false →
        s.powerSavingStep.sprs.hsrr0 = s.sprs.hsrr0 ∧ s.powerSavingStep.sprs.hsrr1 = s.sprs.hsrr1) := by
  have hstep := State.powerSavingStep_of_not_mayLoseState hpending hkept
  rw [State.afterLevel_of_nap (s := s.tick) hnap] at hstep
  rw [hstep]
  exact ⟨rfl, State.takeAsync_sprs _ _, fun h => State.takeAsync_hsrr ((State.usesHsrr_congr rfl _).trans h)⟩

end

/-- Settles O47: with an interrupt that loses no state of its own, the exit is that interrupt taken in what the level left. -/
theorem powerSavingLeft : Obligations.PowerSavingLeft := by
  rintro s t - rfl
  refine ⟨State.powerSavingStep_of_none, fun i hpending => ⟨State.powerSavingStep_keeps hpending, fun hsr hmc hhm => ?_⟩⟩
  have hkept := AsyncInterrupt.mayLoseState_eq_false hsr hmc hhm
  refine ⟨State.powerSavingStep_hrmor hpending hkept, State.powerSavingStep_of_doze hpending hkept, fun hnap => ?_⟩
  obtain ⟨hcontrols, hsprs, hhsrr⟩ := State.powerSavingStep_of_nap hpending hkept hnap
  exact ⟨hcontrols, sprs_eq_of_napSprs hsprs, hhsrr⟩

end Sys2Proof.Machine
end

section
/-!
PROOFS. The Privileged Instruction and TM Bad Thing exceptions of the table's instructions (O32, O48; 60_exceptions.md rules R286, R287, R311).
-/

namespace Sys2Proof.Machine

variable {s : State} {n : Nat} {reg : Spr} {level : PrivLevel}

/-! ### Privileged Instruction -/

theorem State.guardLevel_of_not_mayRun (h : s.mayRun level = false) (body : Result) :
    s.guardLevel level body = .next s.privilegedInstruction :=
  if_neg (ne_true_of_eq_false h)

theorem State.mayRun_privileged_of_problem (h : msrPr s.msr = true) : s.mayRun .privileged = false := by
  rw [State.mayRun, h]
  rfl

/-- A move of a defined number checks the level before all else (R311, R320). -/
theorem exec_mtspr_of_not_mayRun (hrow : mtsprRow n = some (reg, level)) (hlevel : s.mayRun level = false) (rs : RegNum) :
    exec (.mtspr n rs) s = .next s.privilegedInstruction := by
  show execMtspr n rs s = _
  unfold execMtspr
  rw [hrow]
  exact State.guardLevel_of_not_mayRun hlevel _

theorem exec_mfspr_of_not_mayRun (hrow : mfsprRow n = some (reg, level)) (hlevel : s.mayRun level = false) (rt : RegNum) :
    exec (.mfspr rt n) s = .next s.privilegedInstruction := by
  show execMfspr rt n s = _
  unfold execMfspr
  rw [hrow]
  exact State.guardLevel_of_not_mayRun hlevel _

/-- Settles O48: in each of these instructions the check of the level is the outermost one. -/
theorem privilegedInstructions : Obligations.PrivilegedInstructions := by
  refine fun s => ⟨fun hpr => ?_, fun hhv => ?_, fun n reg level => exec_mtspr_of_not_mayRun, fun n reg level => exec_mfspr_of_not_mayRun⟩
  · have hraises (body : Result) : s.guardLevel .privileged body = .next s.privilegedInstruction :=
      State.guardLevel_of_not_mayRun (State.mayRun_privileged_of_problem hpr) body
    exact ⟨fun _ => hraises _, hraises _, hraises _, fun _ _ => hraises _⟩
  · have hraises (body : Result) : s.guardLevel .hypervisor body = .next s.privilegedInstruction :=
      State.guardLevel_of_not_mayRun (level := .hypervisor) hhv body
    exact ⟨hraises _, hraises _, hraises _, hraises _, hraises _⟩

/-! ### TM Bad Thing -/

theorem exec_trechkpt_badThing (husable : s.tmUsable) (hpr : msrPr s.msr = false) (h : s.ts ≠ tsN ∨ s.fs = false) :
    exec .trechkpt s = .next s.tmBadThing :=
  (State.guardPrivilegedTm_of_usable hpr husable _).trans (if_pos (by simpa using h))

theorem exec_tend_badThing (husable : s.tmUsable) (hS : s.ts = tsS) (a : Bool) : exec (.tend a) s = .next s.tmBadThing :=
  (State.guardTm_of_usable husable _).trans (if_pos hS)

theorem exec_treclaim_badThing (husable : s.tmUsable) (hpr : msrPr s.msr = false) (hN : s.ts = tsN) (ra : RegNum) :
    exec (.treclaim ra) s = .next s.tmBadThing :=
  (State.guardPrivilegedTm_of_usable hpr husable _).trans (if_pos hN)

theorem State.moveToSpr_badThing (htm : reg.isTm = true) (husable : s.tmUsable) (hts : s.ts ≠ tsN) (v : Word) :
    s.moveToSpr reg v = .next s.tmBadThing := by
  unfold State.moveToSpr
  rw [if_pos htm, State.guardTm_of_usable husable, if_neg hts]

theorem State.enterPowerSaving_badThing (hhv : s.hypervisorState = true) (hS : s.ts = tsS) (level : PowerLevel) :
    s.enterPowerSaving level = .next s.tmBadThing := by
  have hT : s.ts ≠ tsT := by rw [hS]; decide
  unfold State.enterPowerSaving
  rw [State.guardLevel_of_mayRun (level := .hypervisor) hhv, if_neg hT, if_pos hS]

/-- Settles O32: once its guards are passed, each instruction tests the transaction state. -/
theorem tmBadThings : Obligations.TmBadThings := by
  refine fun s => ⟨exec_trechkpt_badThing, exec_tend_badThing, exec_treclaim_badThing, fun husable hts n rs hlow hhigh => ?_,
    fun hhv hS => ?_⟩
  · obtain ⟨reg, -, hrow, htm⟩ := sprRow_of_tm hlow hhigh
    exact (exec_mtspr_of_row (level := .problem) hrow rfl rs).trans (State.moveToSpr_badThing htm husable hts _)
  · have henter := State.enterPowerSaving_badThing hhv hS
    exact ⟨henter .doze, henter .nap, henter .sleep, henter .rvwinkle⟩

end Sys2Proof.Machine
end

section
/-!
PROOFS. Interrupt entry: the MSR it leaves and the image it saves, bit by bit, for any interrupt, for the Program interrupts and for the Trace
interrupt (O51 to O54; 60_exceptions.md rules R285, R290, R291, R300, R301).
-/

namespace Sys2Proof.Machine

variable (s : State) (k : InterruptKind)

/-! ### The MSR after an interrupt -/

theorem bit_zero (j : Nat) : bit (0 : Word) j = false := BitVec.getMsbD_zero

/-- The MSR that an interrupt leaves: the six bits it names, TS, and zero elsewhere (R290). -/
theorem State.bit_interruptMsr {j : Nat} (hj : j < 64) :
    bit (s.interruptMsr k) j =
      if j = 63 then (if s.interruptHv k then s.controls.hile else s.controls.lpcrIle)
      else if j = 62 then s.bitRule (msrRi s.msr) (figure3 k).ri
      else if j = 51 then s.bitRule (msrMe s.msr) (figure3 k).me
      else if j = 3 then s.interruptHv k
      else if j = 0 then true
      else bit (putTs 0 (interruptTs s.ts)) j := by
  unfold State.interruptMsr
  dsimp only
  rw [bit_putBit _ _ _ _ (by decide) hj, bit_putBit _ _ _ _ (by decide) hj, bit_putBit _ _ _ _ (by decide) hj,
    bit_putBit _ _ _ _ (by decide) hj, bit_putBit _ _ _ _ (by decide) hj]

@[simp] theorem State.interruptMsr_sf : msrSf (s.interruptMsr k) = true := s.bit_interruptMsr k (by decide)

@[simp] theorem State.interruptMsr_hv : msrHv (s.interruptMsr k) = s.bitRule (msrHv s.msr) (figure3 k).hv :=
  s.bit_interruptMsr k (by decide)

@[simp] theorem State.interruptMsr_me : msrMe (s.interruptMsr k) = s.bitRule (msrMe s.msr) (figure3 k).me :=
  s.bit_interruptMsr k (by decide)

@[simp] theorem State.interruptMsr_ri : msrRi (s.interruptMsr k) = s.bitRule (msrRi s.msr) (figure3 k).ri :=
  s.bit_interruptMsr k (by decide)

/-- The byte order of the handler is chosen by the HV that the interrupt leaves (R290). -/
theorem State.interruptMsr_le :
    msrLe (s.interruptMsr k) = if msrHv (s.interruptMsr k) then s.controls.hile else s.controls.lpcrIle := by
  rw [State.interruptMsr_hv]
  exact s.bit_interruptMsr k (by decide)

/-- Every bit but SF, HV, TS, ME, RI and LE is cleared (R290). -/
theorem State.interruptMsr_cleared {j : Nat} (hj : j ∉ [0, 3, 29, 30, 51, 62, 63]) : bit (s.interruptMsr k) j = false := by
  simp only [List.mem_cons, List.not_mem_nil, or_false, not_or] at hj
  obtain ⟨h0, h3, h29, h30, h51, h62, h63⟩ := hj
  rcases Nat.lt_or_ge j 64 with hlt | hge
  · rw [s.bit_interruptMsr k hlt, if_neg h63, if_neg h62, if_neg h51, if_neg h3, if_neg h0, bit_putTs _ _ _ hlt ⟨h29, h30⟩, bit_zero]
  · exact bit_of_ge _ _ hge

/-! ### Figure 3 -/

variable {k} in
theorem State.interruptMsr_of_rowM (h : figure3 k = rowM) :
    msrHv (s.interruptMsr k) = (!s.controls.lpes1 || msrHv s.msr) ∧ msrRi (s.interruptMsr k) = false ∧
      msrMe (s.interruptMsr k) = msrMe s.msr := by
  rw [State.interruptMsr_hv, State.interruptMsr_ri, State.interruptMsr_me, h]
  exact ⟨rfl, rfl, rfl⟩

variable {k} in
theorem State.interruptMsr_of_rowHypervisor (h : figure3 k = rowHypervisor) :
    msrHv (s.interruptMsr k) = true ∧ msrRi (s.interruptMsr k) = msrRi s.msr ∧ msrMe (s.interruptMsr k) = msrMe s.msr := by
  rw [State.interruptMsr_hv, State.interruptMsr_ri, State.interruptMsr_me, h]
  exact ⟨rfl, rfl, rfl⟩

/-- Legend `p`: while executing, the old bit; out of a power-saving level, 1 (R290). -/
theorem State.bitRule_ifPowerSaving (old : Bool) :
    (s.power = .running → s.bitRule old .ifPowerSaving = old) ∧ (s.power ≠ .running → s.bitRule old .ifPowerSaving = true) := by
  unfold State.bitRule
  exact ⟨fun h => by simp [h], fun h => by simp [h]⟩

/-- Settles O52: the two rows that most interrupts share are stated once. -/
theorem figure3Bits : Obligations.Figure3Bits := by
  intro s
  refine ⟨fun k hk => ?_, fun k hk => ?_, fun k hk => ?_, ?_, fun lev => ?_⟩
  · obtain ⟨hrunning, hasleep⟩ := s.bitRule_ifPowerSaving (msrMe s.msr)
    rw [State.interruptMsr_hv, State.interruptMsr_ri, State.interruptMsr_me]
    rcases hk with rfl | rfl
    · exact ⟨rfl, rfl, fun _ => rfl, nofun, nofun⟩
    · exact ⟨rfl, rfl, nofun, fun _ => hrunning, fun _ => hasleep⟩
  · have hrow : figure3 k = rowHypervisor := by rcases hk with rfl | rfl | rfl | rfl | rfl | rfl | rfl <;> rfl
    exact s.interruptMsr_of_rowHypervisor hrow
  · have hrow : figure3 k = rowM := by
      rcases hk with rfl | rfl | rfl | rfl | rfl | rfl | rfl | rfl | rfl | rfl | rfl | rfl | rfl <;> rfl
    exact s.interruptMsr_of_rowM hrow
  · rw [State.interruptMsr_hv, State.interruptMsr_ri, State.interruptMsr_me]
    exact ⟨rfl, rfl, rfl⟩
  · rw [State.interruptMsr_hv, State.interruptMsr_ri, State.interruptMsr_me]
    exact ⟨rfl, rfl, rfl⟩

/-! ### The image that is saved -/

/-- The places of SRR1 and HSRR1 that carry information of the interrupt (R285, R291). -/
theorem bit_statusMask : ∀ j, j < 64 → bit statusMask j = decide ((33 ≤ j ∧ j ≤ 36) ∨ (42 ≤ j ∧ j ≤ 47)) := by decide

theorem bit_savedMsr (msr status : Word) (j : Nat) :
    bit (savedMsr msr status) j = if (33 ≤ j ∧ j ≤ 36) ∨ (42 ≤ j ∧ j ≤ 47) then bit status j else bit msr j := by
  rcases Nat.lt_or_ge j 64 with hlt | hge
  · rw [savedMsr, bit_select _ _ _ _ hlt, bit_statusMask j hlt]
    simp only [decide_eq_true_eq]
  · simp only [bit_of_ge _ _ hge, ite_self]

variable {s k} in
theorem State.takeInterrupt_sprs_of_srr (h : s.usesHsrr k = false) (a v : Word) :
    (s.takeInterrupt k a v).sprs = { s.sprs with srr0 := a, srr1 := savedMsr s.msr v } :=
  if_neg (ne_true_of_eq_false h)

variable {s k} in
theorem State.takeInterrupt_sprs_of_hsrr (h : s.usesHsrr k = true) (a v : Word) :
    (s.takeInterrupt k a v).sprs = { s.sprs with hsrr0 := a, hsrr1 := savedMsr s.msr v } :=
  if_pos h

/-- Settles O51. -/
theorem interruptEntry : Obligations.InterruptEntry := by
  intro s k address status
  refine ⟨s.takeInterrupt_ts k address status, fun j => s.interruptMsr_cleared k, s.interruptMsr_sf k, s.interruptMsr_le k, fun h => ?_,
    fun h => ?_, rfl⟩
  · rw [State.takeInterrupt_sprs_of_srr h]
    exact ⟨rfl, bit_savedMsr _ _⟩
  · rw [State.takeInterrupt_sprs_of_hsrr h]
    exact ⟨rfl, bit_savedMsr _ _⟩

/-! ### The status of the Program interrupts -/

theorem bit_putBit_zero {i : Nat} (hi : i < 64) (b : Bool) (j : Nat) : bit (putBit 0 i b) j = decide (j = i ∧ b = true) := by
  rcases Nat.lt_or_ge j 64 with hlt | hge
  · rw [bit_putBit _ _ _ _ hi hlt, bit_zero]
    by_cases h : j = i <;> simp [h]
  · have hne : j ≠ i := by omega
    rw [bit_of_ge _ _ hge, decide_eq_false fun h => hne h.1]

/-- A Program interrupt whose type is one bit shows that bit and no other (R285). -/
theorem State.programInterrupt_status {typeBit : Nat} (h : typeBit < 64) (j : Nat) :
    bit (s.programInterrupt typeBit).sprs.srr1 j =
      if (33 ≤ j ∧ j ≤ 36) ∨ (42 ≤ j ∧ j ≤ 47) then decide (j = typeBit) else bit s.msr j := by
  rw [State.programInterrupt, State.takeInterrupt_sprs_of_srr rfl, bit_savedMsr, bit_putBit_zero h]
  simp only [and_true]

theorem State.programInterrupt_srr0 (typeBit : Nat) : (s.programInterrupt typeBit).sprs.srr0 = s.nia := rfl

/-- A Floating-Point Enabled interrupt between instructions shows bit 43 and, where it is imprecise, bit 47 (R285). -/
theorem State.fpAtNext_status (bit47 : Bool) (j : Nat) :
    bit (s.fpAtNext bit47).sprs.srr1 j =
      if (33 ≤ j ∧ j ≤ 36) ∨ (42 ≤ j ∧ j ≤ 47) then decide (j = 43 ∨ j = 47 ∧ bit47 = true) else bit s.msr j := by
  have hstatus (hlt : j < 64) : bit (putBit (putBit 0 43 true) 47 bit47) j = decide (j = 43 ∨ j = 47 ∧ bit47 = true) := by
    rw [bit_putBit _ _ _ _ (by decide) hlt, bit_putBit_zero (by decide)]
    by_cases h : j = 47 <;> simp [h]
  rw [State.fpAtNext, State.takeInterrupt_sprs_of_srr rfl, bit_savedMsr]
  split
  · exact hstatus (by omega)
  · rfl

theorem State.fpAtNext_srr0 (bit47 : Bool) : (s.fpAtNext bit47).sprs.srr0 = s.nia := rfl

theorem State.fpReported_fpAtNext : fpReported s.msr s.nia (s.fpAtNext true) :=
  ⟨rfl, fun j => by simpa only [and_true] using s.fpAtNext_status true j⟩

/-! ### A return that enables a Floating-Point Enabled Exception -/

section
variable {s} {image loaded m : Word}

theorem State.fpEnabledBy_of_arises (h52 : bit m 52 = bit image 52) (h55 : bit m 55 = bit image 55) (h : fpArises s image) :
    s.fpEnabledBy m = true := by
  obtain ⟨hfex, hold52, hold55, hnew⟩ := h
  have hold : msrFe s.msr = 0b00 := (msrFe_eq_zero_iff _).2 ⟨hold52, hold55⟩
  have hloaded : msrFe m ≠ 0b00 := by
    rw [ne_eq, msrFe_eq_zero_iff, h52, h55]
    rintro ⟨h52', h55'⟩
    rw [h52', h55'] at hnew
    simp at hnew
  rw [State.fpEnabledBy, hfex, hold]
  simpa using hloaded

/-- An interrupt right after a transition that Table 2 allows finds the thread outside a transaction or in Suspended state as it was: a resumed
transaction is suspended again (R250, R290). -/
theorem interruptTs_table2Result : ∀ cur inp : BitVec 3, table2Allows cur inp →
    interruptTs ((table2Result cur inp).extractLsb' 1 2) = cur.extractLsb' 1 2 := by
  unfold table2Allows table2Result
  decide

/-- What rfid, hrfid and mtmsrd L=0 share where they enable a pending exception: the interrupt comes after the MSR is loaded and before any
failure handling (R200, R252, R285). -/
theorem State.loadMsr_of_fpArises (hm : m = putTsTm loaded (table2Result (msrTsTm s.msr) (msrTsTm image)))
    (hallows : table2Allows (msrTsTm s.msr) (msrTsTm image)) (hpcr : ¬ pcrForbids s image) (hfp : fpArises s image)
    (hloaded : msrTsTm loaded = msrTsTm s.msr) (hbits : bitsFrom [49, 52, 55] image m) (next : Word → Word) (traced : Bool) :
    ∃ t, s.loadMsr image loaded next traced = .next t ∧ fpReported m (nextUnder s m (next m)) t ∧
      t.ts = s.ts ∧ t.tm = s.tm ∧ t.mem = s.mem := by
  have hcases := State.loadMsr_cases (rfl : s.loadMsr image loaded next traced = _)
  dsimp only at hcases
  rw [Transition.applyTo_of_table2Allows hallows hloaded, ← hm] at hcases
  have hts : msrTs m = (table2Result (msrTsTm s.msr) (msrTsTm image)).extractLsb' 1 2 := hm ▸ msrTs_putTsTm _ _
  have hbad : s.pcrBadThing m ≠ true := fun h =>
    hpcr ((State.pcrBadThing_iff_of_allowed hallows hts (hbits 49 (by decide))).1 h)
  have henabled := State.fpEnabledBy_of_arises (hbits 52 (by decide)) (hbits 55 (by decide)) hfp
  have hsuspended : interruptTs (msrTs m) = s.ts := by
    rw [hts, interruptTs_table2Result _ _ hallows, State.ts, msrTs_eq]
  have hnext : (if s.ts == tsS && msrTs m == tsT && s.tm.handleOnResume then wordAlign s.sprs.tfhar else next m) =
      nextUnder s m (next m) := if_congr (by simp [and_assoc]) rfl rfl
  rw [hnext] at hcases
  rcases hcases with ⟨h | h, -⟩ | ⟨-, -, ⟨-, e⟩ | ⟨h, -⟩ | ⟨h, -⟩⟩
  · exact absurd hallows ((tmTransition_eq_badThing_iff _ _).1 h)
  · exact absurd h hbad
  · exact ⟨_, e, State.fpReported_fpAtNext _, (State.takeInterrupt_ts _ _ _ _).trans hsuspended, rfl, rfl⟩
  · exact absurd henabled (ne_true_of_eq_false h)
  · exact absurd henabled (ne_true_of_eq_false h)

end

/-- Settles O53: the three returns differ in the MSR they load and in the next address. -/
theorem programInterruptStatus : Obligations.ProgramInterruptStatus := by
  refine fun s => ⟨⟨s.programInterrupt_srr0 42, s.programInterrupt_srr0 45, s.programInterrupt_status (by decide),
    s.programInterrupt_status (by decide)⟩, fun hpr hT hallows hpcr hfp => ?_, fun hhv hT hallows hpcr hfp => ?_,
    fun rs hpr hT hallows hpcr hfp => ?_⟩
  · have hloaded := rfidLoaded_putTsTm s (table2Result (msrTsTm s.msr) (msrTsTm s.sprs.srr1))
    obtain ⟨t, hload, hreported, hkept⟩ := State.loadMsr_of_fpArises rfl hallows hpcr hfp (msrTsTm_rfidMsr _ _)
      (bitsFrom_of_subset hloaded.1 (by decide)) (fun m => returnAddress m s.sprs.srr0) false
    exact ⟨t, _, _, (exec_rfid_of_privileged hT hpr).trans hload, hloaded, ieaOf_returnAddress _ _, hreported, msrTsTm_putTsTm _ _, hkept⟩
  · have hloaded := hrfidLoaded_putTsTm s (table2Result (msrTsTm s.msr) (msrTsTm s.sprs.hsrr1))
    obtain ⟨t, hload, hreported, hkept⟩ := State.loadMsr_of_fpArises rfl hallows hpcr hfp (msrTsTm_loadMsrBits (by decide) _ _)
      (bitsFrom_of_subset hloaded.1 (by decide)) (fun m => returnAddress m s.sprs.hsrr0) false
    exact ⟨t, _, _, (exec_hrfid_of_hypervisor hT hhv).trans hload, hloaded, ieaOf_returnAddress _ _, hreported, msrTsTm_putTsTm _ _, hkept⟩
  · have hloaded := mtmsrdLoaded_putTsTm rs s (table2Result (msrTsTm s.msr) (msrTsTm (s.gpr rs)))
    obtain ⟨t, hload, hreported, hkept⟩ := State.loadMsr_of_fpArises rfl hallows hpcr hfp (msrTsTm_loadMsrBits (by decide) _ _)
      (bitsFrom_of_subset hloaded.1 (by decide)) (fun _ => s.nia + 4) true
    exact ⟨t, _, (exec_mtmsrd_of_privileged hT hpr rs).trans hload, hloaded, hreported, msrTsTm_putTsTm _ _, hkept⟩

/-! ### Trace -/

section
variable {t : State}

theorem traceAfter_of_fpDue (hcompleted : t.completed = true) (hdue : t.fpDue = true) : traceAfter true (.next t) = .next t.fpBetween := by
  rw [traceAfter, hcompleted, hdue]
  rfl

theorem traceAfter_of_traced (hcompleted : t.completed = true) (hdue : t.fpDue = false) :
    traceAfter true (.next t) = .next t.traceInterrupt := by
  rw [traceAfter, hcompleted, hdue]
  rfl

theorem traceAfter_of_not_completed (hcompleted : t.completed = false) : traceAfter true (.next t) = .next t := by
  rw [traceAfter, hcompleted]
  rfl

end

/-- Where a due exception is reported between instructions, bit 47 is set unless it is precise (R285). -/
theorem State.fpBetween_status (j : Nat) :
    bit s.fpBetween.sprs.srr1 j =
      if (33 ≤ j ∧ j ≤ 36) ∨ (42 ≤ j ∧ j ≤ 47) then decide (j = 43 ∨ j = 47 ∧ msrFe s.msr ≠ 0b11) else bit s.msr j := by
  rw [State.fpBetween, State.fpAtNext_status]
  simp only [bne_iff_ne]

/-- The vector of the Trace interrupt (R301). -/
theorem State.traceInterrupt_nia : s.traceInterrupt.nia = 0xD00 := by
  have haligned : wordAlign 0xD00 = 0xD00 := by decide
  exact haligned

/-- Settles O54. -/
theorem traceInterrupt : Obligations.TraceInterrupt := by
  refine fun t => ⟨fun hcompleted hdue => ?_, fun hcompleted hdue => ?_, traceAfter_of_not_completed, rfl⟩
  · exact ⟨_, traceAfter_of_fpDue hcompleted hdue, t.fpAtNext_srr0 _, t.fpBetween_status, t.takeInterrupt_ts _ _ _, rfl, rfl, rfl⟩
  · exact ⟨_, traceAfter_of_traced hcompleted hdue, rfl, t.traceInterrupt_nia, t.tick.takeInterrupt_ts _ _ _, rfl, rfl, rfl⟩

end Sys2Proof.Machine
end
